-- ==== Sys2Proof/Word.lean ====
section
/-!
DEFINITION. The plain data the TKG protocol block moves: bytes, the 7-byte frame
(20_memory.md R42), the six CRC input bytes (10_state.md R39), the (offset, width, value) triples of
the bit-field codec (40_bitfield_codec.md R76), the decoder's error results (60_exceptions.md R176)
and the record SELFCHECK reports (44_wire_codec.md R154). No operation stands here.
-/
namespace Sys2Proof

/-- One byte; bit 7 is the most significant bit (00_scope.md R9). -/
abbrev Byte := BitVec 8

/-- A wire message: a sequence of ASCII character codes (20_memory.md R46). -/
abbrev Wire := List Byte

/-- The twelve logical buttons, by role (the table of 10_state.md R27). -/
inductive Button where
  | up | down | rapid | single | fwd | back | mgA | mgB | estopOn | estopOff | stdSpeed | angle
  deriving DecidableEq, Repr

/-- A frame: exactly 7 bytes, in index order 0 to 6 (20_memory.md R42). -/
structure Frame where
  header : Byte
  velX : Byte
  velY : Byte
  velYaw : Byte
  firing : Byte
  opt2 : Byte
  crc : Byte
  deriving DecidableEq, Repr, Inhabited

/-- The 6 input bytes of the CRC engine, `CRC_IN[0..5]` (41_crc_engine.md R86). -/
structure CrcBlock where
  b0 : Byte
  b1 : Byte
  b2 : Byte
  b3 : Byte
  b4 : Byte
  b5 : Byte
  deriving DecidableEq, Repr, Inhabited

/-- A named bit range of a byte: its lowest bit and its width (30_encoding.md R67). -/
structure BitRange where
  off : Nat
  width : Nat
  deriving DecidableEq, Repr, Inhabited

/-- One PACK operand: a triple of natural numbers `(off, width, value)` (30_encoding.md R70). -/
structure Field where
  off : Nat
  width : Nat
  value : Nat
  deriving DecidableEq, Repr, Inhabited

/-- The two causes of the decoder's `FormatError`, each with its recorded value
(60_exceptions.md R176). -/
inductive FormatError where
  /-- Cause 1: after stripping, the message splits on `,` into `n ≠ 7` tokens (44_wire_codec.md R148). -/
  | tokenCount (n : Nat)
  /-- Cause 2: token `k` is the lowest-indexed one that is not two hex digits (44_wire_codec.md R149). -/
  | badToken (k : Nat)
  deriving DecidableEq, Repr, Inhabited

/-- The `STATUS` result port (10_state.md R39). -/
inductive Status where
  | ok
  | formatError (cause : FormatError)
  deriving DecidableEq, Repr, Inhabited

/-- `DFIELDS`, the record of every field of a decoded frame (44_wire_codec.md R154). -/
structure DFields where
  estopActive : Bool
  datatype : BitVec 2
  timestamp : BitVec 3
  nodef : BitVec 2
  velX : Int
  velY : Int
  velYaw : Int
  wheel : BitVec 2
  fire : BitVec 2
  taimatu : BitVec 2
  hand : Bool
  angle : Bool
  speed : Bool
  mg : BitVec 2
  opt2Zero : BitVec 5
  crcRx : Byte
  crcCalc : Byte
  raw : Frame
  deriving DecidableEq, Repr, Inhabited

end Sys2Proof
end

