-- ==== Sys2Proof/Config.lean ====
section
/-!
DEFINITION. The configuration parameters of 00_scope.md R7, fixed for the life of the block
(70_reset_and_hazards.md R198), and the free values: an undefined result port reads an opaque
constant, about which nothing can be proved (10_state.md R39, 93_implementation_defined.md I4).
-/
namespace Sys2Proof

/-- The parameters of 00_scope.md R7 that a claim may quantify over: the CRC's, which 41_crc_engine.md
R85 names, those marked *decision*, and the three OPEN ones (`taimatuFn`, `mgFn`, `estopZeroVel`). -/
structure Config where
  /-- `NBTN`: the number of logical buttons, the width of a button vector (decision D12). -/
  nbtn : Nat
  /-- `CRC_POLY` (source §4.2). -/
  crcPoly : Byte
  /-- `CRC_ITERS`: shift iterations per byte, exactly 7 in this hardware (41_crc_engine.md R87). -/
  crcIters : Nat
  /-- `CRC_INIT` (decision D3). -/
  crcInit : Byte
  /-- `CRC_XOROUT` (decision D4). -/
  crcXorOut : Byte
  /-- `DATATYPE_CODE` (decision D6). -/
  datatypeCode : BitVec 2
  /-- `FIRE_CODE_IDLE` (decision D7). -/
  fireIdle : BitVec 2
  /-- `FIRE_CODE_SINGLE` (decision D7). -/
  fireSingle : BitVec 2
  /-- `FIRE_CODE_RAPID` (decision D7). -/
  fireRapid : BitVec 2
  /-- `TAIMATU_FN`: (old taimatu, previous vector, current vector) to {0, 1, 2}. OPEN
  (42_state_tracker.md R103, R104); its range is in its type. -/
  taimatuFn : BitVec 2 → BitVec nbtn → BitVec nbtn → Fin 3
  /-- `MG_FN`: (old MG, previous `BTN_MG_A`, previous `BTN_MG_B`, current `BTN_MG_A`, current
  `BTN_MG_B`) to {0..3}. OPEN (42_state_tracker.md R108); it "must read only `BTN_MG_A` and
  `BTN_MG_B` of the two vectors", so those four bits are all it is given. -/
  mgFn : BitVec 2 → Bool → Bool → Bool → Bool → BitVec 2
  /-- `ESTOP_ZERO_VEL`. OPEN (43_frame_assembler.md R128). -/
  estopZeroVel : Bool
  deriving Inhabited

namespace Config

/-- `FRAME_LEN`: bytes of a frame (source §3). -/
abbrev frameLen : Nat := 7
/-- `CRC_SPAN`: frame bytes the CRC covers (source §3, §4.2). -/
abbrev crcSpan : Nat := 6
/-- `TS_MOD`: the timestamp counts modulo 8 (source §3). -/
abbrev tsMod : Nat := 8
/-- `WHEEL_MAX`: the wheel level is clamped to 0..3 (source §3). -/
abbrev wheelMax : Nat := 3
/-- `DUTY_SCALE` (source §4.4). -/
abbrev dutyScale : Int := 127
/-- `VEL_MIN` (source §4.4). -/
abbrev velMin : Int := -127
/-- `VEL_MAX` (source §4.4). -/
abbrev velMax : Int := 127
/-- `WIRE_LEN`: characters of an encoded message (30_encoding.md R68). -/
abbrev wireLen : Nat := 22

/-- The block's `TAIMATU_FN` on vectors of `n` buttons, which the spec leaves OPEN
(92_eei_decisions.md D8). No value of it can be proved. Log entry 5. -/
opaque openTaimatuFn (n : Nat) : BitVec 2 → BitVec n → BitVec n → Fin 3

/-- The block's `MG_FN`, which the spec leaves OPEN (92_eei_decisions.md D9). Log entry 6. -/
opaque openMgFn : BitVec 2 → Bool → Bool → Bool → Bool → BitVec 2

/-- The block's `ESTOP_ZERO_VEL`, which the spec leaves OPEN (92_eei_decisions.md D11). Log entry 7. -/
opaque openEstopZeroVel : Bool

/-- The configuration of this hardware: the value 00_scope.md R7 gives each parameter, and the opaque
constants for the three OPEN ones. -/
def hw : Config where
  nbtn := 12
  crcPoly := 0xEB
  crcIters := 7
  crcInit := 0x00
  crcXorOut := 0x00
  datatypeCode := 0b01
  fireIdle := 0
  fireSingle := 1
  fireRapid := 2
  taimatuFn := openTaimatuFn 12
  mgFn := openMgFn
  estopZeroVel := openEstopZeroVel

/-! Free values: what a result port holds after the `n`-th command when that command did not write it
(10_state.md R39: "A result port an operation does not write is undefined after that operation").
Log entry 3. -/

/-- An undefined `RBYTE`. -/
opaque freeRbyte : Nat → Byte
/-- An undefined `FRAME_OUT`. -/
opaque freeFrameOut : Nat → Frame
/-- Character `j` of an undefined `WIRE_OUT`. -/
opaque freeWireChar : Nat → Nat → Byte
/-- An undefined `STATUS`. -/
opaque freeStatus : Nat → Status
/-- An undefined `CRC_OK`. -/
opaque freeCrcOk : Nat → Bool
/-- An undefined `DFIELDS`. -/
opaque freeDFields : Nat → DFields

end Config

/-- This hardware's button vector `BTN[11:0]`: bit k is 1 while logical button k is pressed
(10_state.md R27). -/
abbrev Buttons := BitVec Config.hw.nbtn

end Sys2Proof
end

