-- ==== Sys2Proof/Syntax.lean ====
section
/-!
DEFINITION. The ten commands of 30_encoding.md R57, each with the operands of the ports its rule
names (10_state.md R39, 30_encoding.md R70), in the order of spec/opcode_table.json.
-/
namespace Sys2Proof

/-- A command with its typed operands. A command carries nothing but its opcode; "every operand arrives
whole on its own operand port" (30_encoding.md R56). -/
inductive Instr where
  /-- `0x0` RESET: no operand (70_reset_and_hazards.md R197). -/
  | reset
  /-- `0x1` PACK: the `FIELDS` port (40_bitfield_codec.md R76). -/
  | pack (fields : List Field)
  /-- `0x2` UNPACK: the `UBYTE`, `UOFF` and `UWIDTH` ports (40_bitfield_codec.md R80). -/
  | unpack (byte : Byte) (off width : Nat)
  /-- `0x3` CRC: the `CRC_IN[0..5]` port (41_crc_engine.md R86). -/
  | crc (input : CrcBlock)
  /-- `0x4` ADVANCE: the `BTN` port (42_state_tracker.md R97). -/
  | advance (btn : Buttons)
  /-- `0x5` BUILD: the three duty ports, exact rationals (43_frame_assembler.md R121). -/
  | build (dutyX dutyY dutyYaw : Rat)
  /-- `0x6` ENCODE: the `FRAME_IN[0..6]` port (44_wire_codec.md R141). -/
  | encode (frame : Frame)
  /-- `0x7` DECODE: the `WIRE_IN` port (44_wire_codec.md R146). -/
  | decode (wire : Wire)
  /-- `0x8` SELFCHECK: the `WIRE_IN` port (44_wire_codec.md R153). -/
  | selfcheck (wire : Wire)
  /-- `0x9` TICK: the `BTN` port and the three duty ports (45_tick.md R166). -/
  | tick (btn : Buttons) (dutyX dutyY dutyYaw : Rat)
  deriving DecidableEq, Repr

end Sys2Proof
end

