-- ==== Sys2Proof/WellFormed.lean ====
section
/-!
DEFINITION. The caller obligations on a command's operands (40_bitfield_codec.md R77, R81), said
bit by bit. Machine/Operands.lean computes the same obligations the way the spec's rule orders them,
with masks and a first failing reason; that the two agree is a statement for the provers.
-/
namespace Sys2Proof

/-- The range lies in a byte and is not empty: `w ≥ 1` and `off + w ≤ 8`. -/
def rangeOk (off width : Nat) : Bool := decide (1 ≤ width) && decide (off + width ≤ 8)

/-- Bit `k` lies in the field's range. -/
def Field.hasBit (f : Field) (k : Nat) : Bool := decide (f.off ≤ k) && decide (k < f.off + f.width)

/-- Every field's range lies in a byte (R77, reason 1). -/
def fieldsInRange (fields : List Field) : Bool := fields.all fun f => rangeOk f.off f.width

/-- No bit of the byte lies in two list entries (R77, reason 2). -/
def fieldsDisjoint (fields : List Field) : Bool :=
  (List.range 8).all fun k => decide (fields.countP (·.hasBit k) ≤ 1)

/-- Every bit of the byte lies in some field (R77, reason 3). -/
def fieldsCover (fields : List Field) : Bool :=
  (List.range 8).all fun k => fields.any (·.hasBit k)

/-- Every value fits its declared width (R77, reason 4). -/
def fieldsFit (fields : List Field) : Bool := fields.all fun f => decide (f.value < 2 ^ f.width)

/-- PACK's four preconditions (40_bitfield_codec.md R77). -/
def packWellFormed (fields : List Field) : Bool :=
  fieldsInRange fields && fieldsDisjoint fields && fieldsCover fields && fieldsFit fields

/-- A command meets its caller obligations: PACK those of R77, UNPACK that of R81; every other command
accepts every operand of its type (41_crc_engine.md R94, 42_state_tracker.md R116,
43_frame_assembler.md R131, 44_wire_codec.md R143, R145). -/
def Instr.WellFormed : Instr → Bool
  | .reset => true
  | .pack fields => packWellFormed fields
  | .unpack _ off width => rangeOk off width
  | .crc _ => true
  | .advance _ => true
  | .build _ _ _ => true
  | .encode _ => true
  | .decode _ => true
  | .selfcheck _ => true
  | .tick _ _ _ _ => true

end Sys2Proof
end

