-- ==== Sys2Proof/Decode.lean ====
section
/-!
DEFINITION. The command port (30_encoding.md): what the host presents, its decoding to a command or a
named rejection, and the encoder back to ports. Decoding is total on every value of the ports.
-/
namespace Sys2Proof

/-- What the host presents on the operand ports with an operation code (10_state.md R39). The ports are
raw here (natural numbers, lists of natural numbers), so that a value outside a port's type can be
presented and is refused by name (60_exceptions.md R178, `OPERAND_TYPE`). -/
structure Ports where
  btn : Nat
  dutyX : Rat
  dutyY : Rat
  dutyYaw : Rat
  fields : List Field
  ubyte : Nat
  uoff : Nat
  uwidth : Nat
  crcIn : List Nat
  frameIn : List Nat
  wireIn : List Nat
  deriving DecidableEq, Repr

/-- A command on the command port: the 4-bit operation code `OP[3:0]`, "presented on the command port
together with that operation's operand ports" (30_encoding.md R56). -/
structure Command where
  op : BitVec 4
  ports : Ports
  deriving DecidableEq, Repr

/-- The operand ports whose type 30_encoding.md R70 bounds, by name. -/
inductive Port where
  | btn | ubyte | crcIn | frameIn | wireIn
  deriving DecidableEq, Repr

/-- Why a command on the port is no command of the table. -/
inductive Reject where
  /-- The opcode is reserved, `0xA` to `0xF` (30_encoding.md R58). -/
  | illegalOp (op : BitVec 4)
  /-- The named operand port holds a value outside its type (60_exceptions.md R178). -/
  | operandType (port : Port)
  deriving DecidableEq, Repr

/-- DESIGN CHOICE (log entry 2): what the operand ports carry when the host presents a bare operation
code. Zero on every port; the two field ports name the whole byte, since a width of 0 is no value
of `UWIDTH` (R70: 1..8) and the empty `FIELDS` packs no byte. -/
def Ports.idle : Ports where
  btn := 0
  dutyX := 0
  dutyY := 0
  dutyYaw := 0
  fields := [⟨0, 8, 0⟩]
  ubyte := 0
  uoff := 0
  uwidth := 8
  crcIn := [0, 0, 0, 0, 0, 0]
  frameIn := [0, 0, 0, 0, 0, 0, 0]
  wireIn := []

/-- A port value that must fit `n` bits (30_encoding.md R70). -/
def typedWord (port : Port) (n v : Nat) : Except Reject (BitVec n) :=
  if v < 2 ^ n then .ok (BitVec.ofNat n v) else .error (.operandType port)

/-- A port value that must be a sequence of bytes (30_encoding.md R70). -/
def typedBytes (port : Port) : List Nat → Except Reject (List Byte)
  | [] => .ok []
  | v :: vs =>
    match typedWord port 8 v, typedBytes port vs with
    | .ok b, .ok bs => .ok (b :: bs)
    | _, _ => .error (.operandType port)

/-- The `CRC_IN` port: 6 bytes. -/
def typedCrcIn (vs : List Nat) : Except Reject CrcBlock :=
  match typedBytes .crcIn vs with
  | .ok [b0, b1, b2, b3, b4, b5] => .ok ⟨b0, b1, b2, b3, b4, b5⟩
  | _ => .error (.operandType .crcIn)

/-- The `FRAME_IN` port: 7 bytes. -/
def typedFrameIn (vs : List Nat) : Except Reject Frame :=
  match typedBytes .frameIn vs with
  | .ok [b0, b1, b2, b3, b4, b5, b6] => .ok ⟨b0, b1, b2, b3, b4, b5, b6⟩
  | _ => .error (.operandType .frameIn)

/-- The decoder of the command port. It matches all four opcode bits (30_encoding.md R57, mask `0xF`),
rejects a reserved opcode before any operand is looked at (60_exceptions.md R177), and then looks
only at the ports the operation's rule names (10_state.md R39). DEDUCED (log entry 9): a `UOFF` or
`UWIDTH` outside its range is left to UNPACK's own check, `UNPACK_RANGE` (40_bitfield_codec.md R81). -/
def decode (c : Command) : Except Reject Instr :=
  match c.op.toNat with
  | 0x0 => .ok .reset
  | 0x1 => .ok (.pack c.ports.fields)
  | 0x2 => (typedWord .ubyte 8 c.ports.ubyte).map fun b => .unpack b c.ports.uoff c.ports.uwidth
  | 0x3 => (typedCrcIn c.ports.crcIn).map .crc
  | 0x4 => (typedWord .btn Config.hw.nbtn c.ports.btn).map .advance
  | 0x5 => .ok (.build c.ports.dutyX c.ports.dutyY c.ports.dutyYaw)
  | 0x6 => (typedFrameIn c.ports.frameIn).map .encode
  | 0x7 => (typedBytes .wireIn c.ports.wireIn).map .decode
  | 0x8 => (typedBytes .wireIn c.ports.wireIn).map .selfcheck
  | 0x9 => (typedWord .btn Config.hw.nbtn c.ports.btn).map fun b =>
      .tick b c.ports.dutyX c.ports.dutyY c.ports.dutyYaw
  | _ => .error (.illegalOp c.op)

/-- The operation code of each command (the table of 30_encoding.md R57). -/
def opcodeOf : Instr → BitVec 4
  | .reset => 0x0
  | .pack _ => 0x1
  | .unpack _ _ _ => 0x2
  | .crc _ => 0x3
  | .advance _ => 0x4
  | .build _ _ _ => 0x5
  | .encode _ => 0x6
  | .decode _ => 0x7
  | .selfcheck _ => 0x8
  | .tick _ _ _ _ => 0x9

/-- The operand ports of each command; a port its rule does not name stays idle. -/
def portsOf : Instr → Ports
  | .reset => Ports.idle
  | .pack fields => { Ports.idle with fields := fields }
  | .unpack b off width => { Ports.idle with ubyte := b.toNat, uoff := off, uwidth := width }
  | .crc m => { Ports.idle with crcIn := [m.b0, m.b1, m.b2, m.b3, m.b4, m.b5].map BitVec.toNat }
  | .advance btn => { Ports.idle with btn := btn.toNat }
  | .build dx dy dyaw => { Ports.idle with dutyX := dx, dutyY := dy, dutyYaw := dyaw }
  | .encode f =>
    { Ports.idle with
      frameIn := [f.header, f.velX, f.velY, f.velYaw, f.firing, f.opt2, f.crc].map BitVec.toNat }
  | .decode w => { Ports.idle with wireIn := w.map BitVec.toNat }
  | .selfcheck w => { Ports.idle with wireIn := w.map BitVec.toNat }
  | .tick btn dx dy dyaw =>
    { Ports.idle with btn := btn.toNat, dutyX := dx, dutyY := dy, dutyYaw := dyaw }

/-- The encoder: what the host presents to issue a command. -/
def encode (i : Instr) : Command := ⟨opcodeOf i, portsOf i⟩

/-- The command whose bits, as spec/opcode_table.json numbers them, are `w`: the command port has four
wires, so bits 3-0 are the opcode and there are no others (30_encoding.md R56, R59). The operand
ports are not bits of the table's rows; they are idle. -/
def commandOfWord (_nbits w : Nat) : Command := ⟨BitVec.ofNat 4 w, Ports.idle⟩

/-- The command the decoder reads from an opcode word of the table; `none` where it rejects. -/
def decodeTableWord (nbits w : Nat) : Option Instr :=
  match decode (commandOfWord nbits w) with
  | .ok i => some i
  | .error _ => none

end Sys2Proof
end

