-- ==== Sys2Proof/Machine/State.lean ====
section
/-!
DEFINITION. The machine's state: the ten ProtocolState registers of 10_state.md R20, the result ports
of R39, the commands the host has yet to issue, and the model's own counter for free values. Also the
reasons a step can stop, and the state at power-up.
-/
namespace Sys2Proof.Machine

/-- The ten state registers, "and nothing else" (10_state.md R20), of a block with `n` buttons
(`NBTN`, 00_scope.md R7). -/
structure RegsOf (n : Nat) where
  /-- `TS`, 3 bits: the frame timestamp (R23). -/
  ts : BitVec 3
  /-- `WHEEL`, 2 bits: the wheel level (R24). -/
  wheel : BitVec 2
  /-- `FIRE`, 2 bits: the fire state (R25). -/
  fire : BitVec 2
  /-- `TAIMATU`, 2 bits: the taimatu state (R26). -/
  taimatu : BitVec 2
  /-- `HAND`, 1 bit: the hand latch, true = forward (R28). -/
  hand : Bool
  /-- `MG`, 2 bits: the MG state (R29). -/
  mg : BitVec 2
  /-- `ESTOP`, 1 bit: the emergency-stop latch, true = active (R30). -/
  estop : Bool
  /-- `SPEED`, 1 bit: the speed mode, true = standard (R31). -/
  speed : Bool
  /-- `ANGLE`, 1 bit: the firing-angle flag, true = pressed (R32). -/
  angle : Bool
  /-- `PREV`, `NBTN` bits, 12 in this hardware: the button vector of the previous ADVANCE (R33). -/
  prev : BitVec n
  deriving DecidableEq, Repr

/-- The registers of this hardware. -/
abbrev Regs := RegsOf Config.hw.nbtn

/-- The result ports of 10_state.md R39, as the last command left them. -/
structure Results where
  /-- `RBYTE`: written by PACK, UNPACK, CRC. -/
  rbyte : Byte
  /-- `FRAME_OUT[0..6]`: written by BUILD, TICK, and by DECODE and SELFCHECK when `STATUS = OK`. -/
  frameOut : Frame
  /-- `WIRE_OUT`, 22 characters: written by ENCODE, TICK. -/
  wireOut : Wire
  /-- `STATUS`: written by DECODE, SELFCHECK. -/
  status : Status
  /-- `CRC_OK`: written by SELFCHECK when `STATUS = OK`. -/
  crcOk : Bool
  /-- `DFIELDS`: written by SELFCHECK when `STATUS = OK`. -/
  dfields : DFields
  deriving DecidableEq, Repr

/-- The state. A step is one command (00_scope.md R6), or one idle wait for the host. -/
structure State where
  /-- The ten registers. -/
  regs : Regs
  /-- The result ports. -/
  out : Results
  /-- The commands the host has yet to issue, oldest first (20_memory.md R52; log entry 1). -/
  host : List Command
  /-- The model's own: the number of commands completed, which indexes the free values an undefined
  result port reads (log entry 3). No rule of the spec names it. -/
  fresh : Nat
  deriving DecidableEq, Repr

/-- The block has no fault: "No command traps" (60_exceptions.md R175), a `FormatError` is a result
(R176) and a CRC mismatch is a flag (R179). So this type has no constructor. Safe: nothing that the
spec lets run stops here. -/
inductive Fault : Type
  deriving DecidableEq, Repr

/-- Why a step is refused: the reasons of 60_exceptions.md R178, and `notModelled`. All are safe: a
claim about a run that reaches a refused command cannot be proved. -/
inductive Refusal where
  /-- Raised by exec's arm of an instruction that has no meaning yet; no arm raises it. Safe. -/
  | notModelled (mnemonic : String)
  /-- `ILLEGAL_OP`, raised by the decoder: a reserved opcode `0xA`..`0xF` (30_encoding.md R58). Safe. -/
  | illegalOp (op : BitVec 4)
  /-- `OPERAND_TYPE`, raised by the decoder: an operand port holds a value outside its type
  (30_encoding.md R70). Safe. -/
  | operandType (port : Port)
  /-- `PACK_RANGE`, raised by PACK: a width of 0, or offset + width > 8 (40_bitfield_codec.md R77). Safe. -/
  | packRange
  /-- `PACK_OVERLAP`, raised by PACK: two ranges share a bit (R77). Safe. -/
  | packOverlap
  /-- `PACK_COVER`, raised by PACK: the ranges do not cover all 8 bits (R77). Safe. -/
  | packCover
  /-- `PACK_VALUE`, raised by PACK: a value does not fit its width (R77). Safe. -/
  | packValue
  /-- `UNPACK_RANGE`, raised by UNPACK: width 0, or offset + width > 8 (40_bitfield_codec.md R81). Safe. -/
  | unpackRange
  deriving DecidableEq, Repr

/-- The registers at power-up: the table of 10_state.md R38 (70_reset_and_hazards.md R195). -/
def Regs.reset : Regs where
  ts := 0
  wheel := 0
  fire := 0
  taimatu := 0
  hand := false
  mg := 0
  estop := false
  speed := false
  angle := false
  prev := 0

/-- DESIGN CHOICE (log entry 4): the result ports at power-up, before any command has written one; the
spec gives none. All zero; `WIRE_OUT` is 22 zero bytes, its fixed length. -/
def Results.reset : Results where
  rbyte := 0
  frameOut := ⟨0, 0, 0, 0, 0, 0, 0⟩
  wireOut := List.replicate Config.wireLen 0
  status := .ok
  crcOk := false
  dfields :=
    { estopActive := false, datatype := 0, timestamp := 0, nodef := 0
      velX := 0, velY := 0, velYaw := 0
      wheel := 0, fire := 0, taimatu := 0, hand := false, angle := false
      speed := false, mg := 0, opt2Zero := 0
      crcRx := 0, crcCalc := 0, raw := ⟨0, 0, 0, 0, 0, 0, 0⟩ }

/-- The block at power-up (70_reset_and_hazards.md R195, R196): the reset registers, and no command
issued yet. -/
def State.reset : State where
  regs := Regs.reset
  out := Results.reset
  host := []
  fresh := 0

end Sys2Proof.Machine
end

