-- ==== Sys2Proof/Machine/Operands.lean ====
section
/-!
DEFINITION. Operand forms: bit positions of the buttons (10_state.md R27), the named bit ranges of a
frame byte (30_encoding.md R67), the codec's checks and functions (40_bitfield_codec.md R76-R81), the
two's-complement byte (00_scope.md R10), the duty conversion (43_frame_assembler.md R122), and the
bytes of a frame and of a wire message by index (20_memory.md R42, R46).
-/
namespace Sys2Proof.Machine

/-! ### Buttons -/

/-- The bit of the button vector each logical button has (the table of 10_state.md R27). -/
def buttonBit : Button → Nat
  | .up => 0
  | .down => 1
  | .rapid => 2
  | .single => 3
  | .fwd => 4
  | .back => 5
  | .mgA => 6
  | .mgB => 7
  | .estopOn => 8
  | .estopOff => 9
  | .stdSpeed => 10
  | .angle => 11

/-- The button is pressed in the vector. DEDUCED (log entry 16): in a vector of fewer than 12 bits, a
button past its end reads 0. -/
def held {n : Nat} (v : BitVec n) (b : Button) : Bool := v.getLsbD (buttonBit b)

/-- A rising edge: released in the previous vector `p`, pressed in the current vector `c`
(42_state_tracker.md R96). -/
def rise {n : Nat} (p c : BitVec n) (b : Button) : Bool := !held p b && held c b

/-! ### Named bit ranges (30_encoding.md R67) -/

/-- `HDR_ESTOP_N`. -/
def hdrEstopN : BitRange := ⟨7, 1⟩
/-- `HDR_DATATYPE`. -/
def hdrDatatype : BitRange := ⟨5, 2⟩
/-- `HDR_TS`. -/
def hdrTs : BitRange := ⟨2, 3⟩
/-- `HDR_NODEF`. -/
def hdrNodef : BitRange := ⟨0, 2⟩
/-- `FIR_WHEEL`. -/
def firWheel : BitRange := ⟨6, 2⟩
/-- `FIR_FIRE`. -/
def firFire : BitRange := ⟨4, 2⟩
/-- `FIR_TAIMATU`. -/
def firTaimatu : BitRange := ⟨2, 2⟩
/-- `FIR_HAND`. -/
def firHand : BitRange := ⟨1, 1⟩
/-- `FIR_ANGLE`. -/
def firAngle : BitRange := ⟨0, 1⟩
/-- `OPT_SPEED`. -/
def optSpeed : BitRange := ⟨7, 1⟩
/-- `OPT_MG`. -/
def optMg : BitRange := ⟨5, 2⟩
/-- `OPT_ZERO`. -/
def optZero : BitRange := ⟨0, 5⟩

/-- The PACK triple that puts `v` in the range. -/
def fieldAt (r : BitRange) (v : Nat) : Field := ⟨r.off, r.width, v⟩

/-! ### PACK -/

/-- The mask of a field's range, `((1 << w) - 1) << off` (40_bitfield_codec.md R77). -/
def fieldMask (f : Field) : Nat := ((1 <<< f.width) - 1) <<< f.off

/-- Two different list entries have intersecting masks; an entry listed twice overlaps itself (R77). -/
def someOverlap : List Field → Bool
  | [] => false
  | f :: fs => fs.any (fun g => (fieldMask f &&& fieldMask g) != 0) || someOverlap fs

/-- The union of the masks (R77). -/
def maskUnion (fields : List Field) : Nat := fields.foldl (fun m f => m ||| fieldMask f) 0

/-- PACK's preconditions: the first failing reason in R77's order, or `none`. -/
def packRefusal (fields : List Field) : Option Refusal :=
  if fields.any (fun f => f.width == 0 || decide (8 < f.off + f.width)) then some .packRange
  else if someOverlap fields then some .packOverlap
  else if maskUnion fields != 0xFF then some .packCover
  else if fields.any (fun f => decide (2 ^ f.width ≤ f.value)) then some .packValue
  else none

/-- PACK's byte: every value shifted to its offset and OR-ed in, bits 7-0 of the whole (R76). -/
def packByte (fields : List Field) : Byte :=
  BitVec.ofNat 8 (fields.foldl (fun r f => r ||| (f.value <<< f.off)) 0)

/-! ### UNPACK -/

/-- UNPACK's precondition (40_bitfield_codec.md R81). -/
def unpackRefusal (off width : Nat) : Option Refusal :=
  if decide (1 ≤ width) && decide (off + width ≤ 8) then none else some .unpackRange

/-- UNPACK's value, zero-extended to 8 bits: `(byte >> off) & ((1 << width) - 1)` (R80). -/
def unpackByte (b : Byte) (off width : Nat) : Byte :=
  (b >>> off) &&& BitVec.ofNat 8 ((1 <<< width) - 1)

/-- A named field of a byte, extracted by UNPACK, at the width `n` of its record entry. -/
def extract (n : Nat) (r : BitRange) (b : Byte) : BitVec n := (unpackByte b r.off r.width).setWidth n

/-- A named 1-bit field of a byte, extracted by UNPACK. -/
def extractBit (r : BitRange) (b : Byte) : Bool := unpackByte b r.off r.width != 0

/-! ### Signed bytes and duties -/

/-- `u8(i)`: the byte `i mod 256`, two's complement (00_scope.md R10, R12). -/
def u8 (i : Int) : Byte := BitVec.ofInt 8 i

/-- `s8(b)`: the signed value of a byte (00_scope.md R10). -/
def s8 (b : Byte) : Int := if b.toNat < 128 then (b.toNat : Int) else (b.toNat : Int) - 256

/-- `trunc(q)`: rounds a rational toward zero (00_scope.md R10). -/
def truncRat (q : Rat) : Int := q.num.tdiv q.den

/-- `DUTY_TO_INT(d) = max(-127, min(127, trunc(127 * d)))`, exact (43_frame_assembler.md R122). -/
def dutyToInt (d : Rat) : Int :=
  max Config.velMin (min Config.velMax (truncRat ((Config.dutyScale : Rat) * d)))

/-! ### Frames and wire messages by index -/

/-- The frame's bytes in index order (20_memory.md R42, R43). -/
def frameBytes (f : Frame) : List Byte :=
  [f.header, f.velX, f.velY, f.velYaw, f.firing, f.opt2, f.crc]

/-- The frame of seven bytes in index order; `none` for any other count. -/
def frameOfBytes : List Byte → Option Frame
  | [b0, b1, b2, b3, b4, b5, b6] => some ⟨b0, b1, b2, b3, b4, b5, b6⟩
  | _ => none

/-- `FrameRead(k)`: byte `k` of a frame; "an index outside those ranges names nothing"
(20_memory.md R41, R42). -/
def frameRead (f : Frame) (k : Nat) : Option Byte := (frameBytes f)[k]?

/-- `FrameWrite(k, b)`: the frame with byte `k` set; an index above 6 names nothing and sets nothing
(20_memory.md R41, R42). -/
def frameWrite (f : Frame) (k : Nat) (b : Byte) : Frame :=
  match k with
  | 0 => { f with header := b }
  | 1 => { f with velX := b }
  | 2 => { f with velY := b }
  | 3 => { f with velYaw := b }
  | 4 => { f with firing := b }
  | 5 => { f with opt2 := b }
  | 6 => { f with crc := b }
  | _ => f

/-- Frame bytes 0-5, the span the CRC covers (30_encoding.md R65). -/
def frameBody (f : Frame) : CrcBlock := ⟨f.header, f.velX, f.velY, f.velYaw, f.firing, f.opt2⟩

/-- The CRC engine's input bytes in ascending index order (20_memory.md R47). -/
def blockBytes (m : CrcBlock) : List Byte := [m.b0, m.b1, m.b2, m.b3, m.b4, m.b5]

/-- `WireChar(j)`: character `j` of a wire message (20_memory.md R46). -/
def wireChar (w : Wire) (j : Nat) : Option Byte := w[j]?

end Sys2Proof.Machine
end

