-- ==== Sys2Proof/Machine/Ops.lean ====
section
/-!
DEFINITION. The operations every command shares: what the result ports hold where a command does not
write them, the one atomic write at a command's end (00_scope.md R11), and the error result in place
of an exception (60_exceptions.md R175: the block has no trap, no handler and no trap return).
-/
namespace Sys2Proof.Machine

/-- Result ports of which none is written: every one is a free value (10_state.md R39,
93_implementation_defined.md I4; log entry 3). `n` numbers the command. -/
def freeResults (n : Nat) : Results where
  rbyte := Config.freeRbyte n
  frameOut := Config.freeFrameOut n
  wireOut := (List.range Config.wireLen).map (Config.freeWireChar n)
  status := Config.freeStatus n
  crcOk := Config.freeCrcOk n
  dfields := Config.freeDFields n

/-- The result ports of the command now performed, before it writes any. -/
def State.undefinedOut (s : State) : Results := freeResults s.fresh

/-- The end of a command: "every state write takes effect together at its end" (00_scope.md R11).
The registers and result ports take the values given; the commands still to come stay. -/
def State.commit (s : State) (regs : Regs) (out : Results) : State :=
  { s with regs := regs, out := out, fresh := s.fresh + 1 }

/-- `fail FormatError(cause)`: the command ends with that `STATUS`, no other result port written and no
register changed (60_exceptions.md R176, R181). -/
def State.failFormat (s : State) (e : FormatError) : State :=
  s.commit s.regs { s.undefinedOut with status := .formatError e }

/-- `refuse Reason` where a caller obligation is broken, else the next state (60_exceptions.md R178:
"A refused command writes no result port and no state"). -/
def unlessRefused (r : Option Refusal) (t : State) : Host.Outcome State Fault Refusal :=
  match r with
  | some reason => .refused reason
  | none => .next t

/-- The numeric code of a `STATUS` (60_exceptions.md R176). -/
def statusCode : Status → Nat
  | .ok => 0
  | .formatError (.tokenCount _) => 1
  | .formatError (.badToken _) => 2

end Sys2Proof.Machine
end

