-- ==== Sys2Proof/Machine/Codec.lean ====
section
/-!
DEFINITION. The bit-field codec's commands, PACK and UNPACK (40_bitfield_codec.md). Neither reads nor
writes a register (R75).
-/
namespace Sys2Proof.Machine

/-- PACK (`0x1`): refused where R77's obligations are broken, else `RBYTE` is the packed byte (R76). -/
def execPack (fields : List Field) (s : State) : Host.Outcome State Fault Refusal :=
  unlessRefused (packRefusal fields)
    (s.commit s.regs { s.undefinedOut with rbyte := packByte fields })

/-- UNPACK (`0x2`): refused where R81's obligation is broken, else `RBYTE` is the field's value (R80). -/
def execUnpack (byte : Byte) (off width : Nat) (s : State) : Host.Outcome State Fault Refusal :=
  unlessRefused (unpackRefusal off width)
    (s.commit s.regs { s.undefinedOut with rbyte := unpackByte byte off width })

end Sys2Proof.Machine
end

