-- ==== Sys2Proof/Machine/CrcEngine.lean ====
section
/-!
DEFINITION. The CRC engine (41_crc_engine.md): polynomial `0xEB`, most-significant-bit-first, 7 shift
iterations per byte, and the CRC command.
-/
namespace Sys2Proof.Machine

/-- One shift iteration: the MSB is tested before the shift (41_crc_engine.md R86). -/
def crcShift (poly c : Byte) : Byte :=
  if c.msb then (c <<< 1) ^^^ poly else c <<< 1

/-- `n` shift iterations. -/
def crcShifts (poly : Byte) : Nat → Byte → Byte
  | 0, c => c
  | n + 1, c => crcShifts poly n (crcShift poly c)

/-- One input byte: XORed into the register, then `CRC_ITERS` shift iterations (R86). -/
def crcByte (cfg : Config) (c b : Byte) : Byte := crcShifts cfg.crcPoly cfg.crcIters (c ^^^ b)

/-- The checksum of six bytes, byte 0 first (R86). -/
def crcOf (cfg : Config) (m : CrcBlock) : Byte :=
  (blockBytes m).foldl (crcByte cfg) cfg.crcInit ^^^ cfg.crcXorOut

/-- CRC (`0x3`): writes `RBYTE`; reads and writes no register (R86). -/
def execCrc (input : CrcBlock) (s : State) : Host.Outcome State Fault Refusal :=
  .next (s.commit s.regs { s.undefinedOut with rbyte := crcOf Config.hw input })

end Sys2Proof.Machine
end

