-- ==== Sys2Proof/Machine/Assembler.lean ====
section
/-!
DEFINITION. The frame assembler: BUILD (43_frame_assembler.md). It reads nine registers and the three
duties, and writes no register (R131).
-/
namespace Sys2Proof.Machine

/-- The Header byte's fields: `ESTOP_N` in inverted polarity, `DATATYPE`, `TIMESTAMP`, `NODEF`
(43_frame_assembler.md R121, R125). -/
def headerFields (cfg : Config) (r : RegsOf cfg.nbtn) : List Field :=
  [fieldAt hdrEstopN (1 - r.estop.toNat), fieldAt hdrDatatype cfg.datatypeCode.toNat,
   fieldAt hdrTs r.ts.toNat, fieldAt hdrNodef 0]

/-- The Firing byte's fields: ESTOP forces `WHEEL`, `TAIMATU` and `HAND` to 0, not `FIRE` or `ANGLE`
(R121, R126). -/
def firingFields {n : Nat} (r : RegsOf n) : List Field :=
  [fieldAt firWheel (if r.estop then 0 else r.wheel.toNat), fieldAt firFire r.fire.toNat,
   fieldAt firTaimatu (if r.estop then 0 else r.taimatu.toNat),
   fieldAt firHand (if r.estop then 0 else r.hand.toNat), fieldAt firAngle r.angle.toNat]

/-- The Opt2 byte's fields; ESTOP overrides none (R121, R127). -/
def opt2Fields {n : Nat} (r : RegsOf n) : List Field :=
  [fieldAt optSpeed r.speed.toNat, fieldAt optMg r.mg.toNat, fieldAt optZero 0]

/-- A velocity byte: the converted duty, or `0x00` under ESTOP where `ESTOP_ZERO_VEL` holds
(R121, R122, R128). -/
def velByte (cfg : Config) (r : RegsOf cfg.nbtn) (d : Rat) : Byte :=
  if r.estop && cfg.estopZeroVel then 0x00 else u8 (dutyToInt d)

/-- Frame bytes 0-5, after every override (R121, R129). -/
def buildBody (cfg : Config) (r : RegsOf cfg.nbtn) (dx dy dyaw : Rat) : CrcBlock where
  b0 := packByte (headerFields cfg r)
  b1 := velByte cfg r dx
  b2 := velByte cfg r dy
  b3 := velByte cfg r dyaw
  b4 := packByte (firingFields r)
  b5 := packByte (opt2Fields r)

/-- The frame BUILD assembles: bytes 0-5 and their CRC (R121, R129). -/
def buildFrame (cfg : Config) (r : RegsOf cfg.nbtn) (dx dy dyaw : Rat) : Frame :=
  let m := buildBody cfg r dx dy dyaw
  ⟨m.b0, m.b1, m.b2, m.b3, m.b4, m.b5, crcOf cfg m⟩

/-- BUILD (`0x5`): writes `FRAME_OUT` (R121). -/
def execBuild (dx dy dyaw : Rat) (s : State) : Host.Outcome State Fault Refusal :=
  .next (s.commit s.regs
    { s.undefinedOut with frameOut := buildFrame Config.hw s.regs dx dy dyaw })

end Sys2Proof.Machine
end

