-- ==== Sys2Proof/Machine/Tracker.lean ====
section
/-!
DEFINITION. The protocol state tracker: ADVANCE (42_state_tracker.md) and RESET
(70_reset_and_hazards.md R197), the only commands, with TICK, that write registers (10_state.md R37).
-/
namespace Sys2Proof.Machine

/-- The wheel level: the up edge's increment, clamped at 3, then the down edge's decrement, clamped at
0 (42_state_tracker.md R97, R99, R100). -/
def nextWheel {n : Nat} (w : BitVec 2) (p c : BitVec n) : BitVec 2 :=
  let w1 := if rise p c .up then min (w.toNat + 1) Config.wheelMax else w.toNat
  let w2 := if rise p c .down then w1 - 1 else w1
  BitVec.ofNat 2 w2

/-- The fire state, from the current levels alone; rapid fire wins (R101, R102). -/
def nextFire (cfg : Config) (c : BitVec cfg.nbtn) : BitVec 2 :=
  if held c .rapid then cfg.fireRapid
  else if held c .single then cfg.fireSingle
  else cfg.fireIdle

/-- The taimatu state: `TAIMATU_FN` of the old state and both vectors (R103). -/
def nextTaimatu (cfg : Config) (t : BitVec 2) (p c : BitVec cfg.nbtn) : BitVec 2 :=
  BitVec.ofNat 2 (cfg.taimatuFn t p c).val

/-- The hand latch: the forward edge sets it, the backward edge clears it and wins (R107). -/
def nextHand {n : Nat} (h : Bool) (p c : BitVec n) : Bool :=
  let h1 := if rise p c .fwd then true else h
  if rise p c .back then false else h1

/-- The MG state: `MG_FN` of the old state and its own button pair (R108). -/
def nextMg (cfg : Config) (m : BitVec 2) (p c : BitVec cfg.nbtn) : BitVec 2 :=
  cfg.mgFn m (held p .mgA) (held p .mgB) (held c .mgA) (held c .mgB)

/-- The ESTOP latch: the deactivate edge clears it, the activate edge sets it and wins (R110, R111). -/
def nextEstop {n : Nat} (e : Bool) (p c : BitVec n) : Bool :=
  let e1 := if rise p c .estopOff then false else e
  if rise p c .estopOn then true else e1

/-- The registers after one ADVANCE with the vector `c`: every read sees the old registers (R97). -/
def advanceRegs (cfg : Config) (r : RegsOf cfg.nbtn) (c : BitVec cfg.nbtn) : RegsOf cfg.nbtn where
  ts := BitVec.ofNat 3 ((r.ts.toNat + 1) % Config.tsMod)
  wheel := nextWheel r.wheel r.prev c
  fire := nextFire cfg c
  taimatu := nextTaimatu cfg r.taimatu r.prev c
  hand := nextHand r.hand r.prev c
  mg := nextMg cfg r.mg r.prev c
  estop := nextEstop r.estop r.prev c
  speed := held c .stdSpeed
  angle := held c .angle
  prev := c

/-- The registers RESET leaves (70_reset_and_hazards.md R197). -/
def resetRegs (cfg : Config) : RegsOf cfg.nbtn where
  ts := 0
  wheel := 0
  fire := cfg.fireIdle
  taimatu := 0
  hand := false
  mg := 0
  estop := false
  speed := false
  angle := false
  prev := 0

/-- ADVANCE (`0x4`): writes every register and no result port (42_state_tracker.md R97). -/
def execAdvance (btn : Buttons) (s : State) : Host.Outcome State Fault Refusal :=
  .next (s.commit (advanceRegs Config.hw s.regs btn) s.undefinedOut)

/-- RESET (`0x0`): writes every register and no result port (70_reset_and_hazards.md R197). -/
def execReset (s : State) : Host.Outcome State Fault Refusal :=
  .next (s.commit (resetRegs Config.hw) s.undefinedOut)

end Sys2Proof.Machine
end

