-- ==== Sys2Proof/Machine/Flags.lean ====
section
/-!
DEFINITION. The block's one flag. "No flags or condition codes exist beyond the registers"
(10_state.md R35); `CRC_OK` is a result port of SELFCHECK (44_wire_codec.md R155).
-/
namespace Sys2Proof.Machine

/-- `CRC_OK`: 1 when the recomputed CRC equals the received Crc byte, else 0, the source's `NG`
(44_wire_codec.md R153, R155). -/
def crcOkFlag (cfg : Config) (f : Frame) : Bool := crcOf cfg (frameBody f) == f.crc

end Sys2Proof.Machine
end

