-- ==== Sys2Proof/Machine/WireCodec.lean ====
section
/-!
DEFINITION. The wire codec and self-checker: ENCODE, DECODE and SELFCHECK (44_wire_codec.md). None
reads or writes a register (R140).
-/
namespace Sys2Proof.Machine

/-! ### ENCODE -/

/-- `,` -/
def comma : Byte := 0x2C
/-- CR -/
def carriageReturn : Byte := 0x0D
/-- LF -/
def lineFeed : Byte := 0x0A

/-- `HEXL(n)`: the lowercase hex digit of `n` in 0..15 (44_wire_codec.md R141, R142). -/
def hexLower (n : Nat) : Byte :=
  if n ≤ 9 then BitVec.ofNat 8 (0x30 + n) else BitVec.ofNat 8 (0x61 + (n - 10))

/-- Two hex digits, the high nibble first (20_memory.md R45). -/
def hexPair (b : Byte) : Wire := [hexLower (b.toNat / 16), hexLower (b.toNat % 16)]

/-- The tokens with a `,` between each two. -/
def joinCommas : List Wire → Wire
  | [] => []
  | [t] => t
  | t :: u :: ts => t ++ comma :: joinCommas (u :: ts)

/-- The wire message of a frame: 22 characters (R141). -/
def encodeFrame (f : Frame) : Wire :=
  joinCommas ((frameBytes f).map hexPair) ++ [carriageReturn, lineFeed]

/-- ENCODE (`0x6`): writes `WIRE_OUT` (R141). It checks no CRC and no field. -/
def execEncode (frame : Frame) (s : State) : Host.Outcome State Fault Refusal :=
  .next (s.commit s.regs { s.undefinedOut with wireOut := encodeFrame frame })

/-! ### DECODE -/

/-- `HEXV(ch)`: the value of a hex digit of either case, or none (R146, R149). -/
def hexValue (ch : Byte) : Option Nat :=
  let c := ch.toNat
  if 0x30 ≤ c ∧ c ≤ 0x39 then some (c - 0x30)
  else if 0x61 ≤ c ∧ c ≤ 0x66 then some (c - 0x61 + 10)
  else if 0x41 ≤ c ∧ c ≤ 0x46 then some (c - 0x41 + 10)
  else none

/-- A CR or LF character. -/
def isTerminator (ch : Byte) : Bool := ch == carriageReturn || ch == lineFeed

/-- The message without its trailing CR and LF characters, however many and in any order (R147). -/
def stripTerminators (w : Wire) : Wire := (w.reverse.dropWhile isTerminator).reverse

/-- `split(s, 0x2C)`: n commas give n + 1 tokens, the empty message one empty token (R146). -/
def splitCommas : Wire → List Wire
  | [] => [[]]
  | ch :: rest =>
    if ch == comma then [] :: splitCommas rest
    else
      match splitCommas rest with
      | [] => [[ch]]
      | t :: ts => (ch :: t) :: ts

/-- A token's byte: exactly two hex digits, the first worth 16 (R146, R149). -/
def tokenByte : Wire → Option Byte
  | [hi, lo] =>
    match hexValue hi, hexValue lo with
    | some h, some l => some (BitVec.ofNat 8 (16 * h + l))
    | _, _ => none
  | _ => none

/-- The bytes of the tokens, the first of which has index `k`; the lowest-indexed bad token is the
error (R149). -/
def tokensBytes (k : Nat) : List Wire → Except FormatError (List Byte)
  | [] => .ok []
  | t :: ts =>
    match tokenByte t with
    | none => .error (.badToken k)
    | some b =>
      match tokensBytes (k + 1) ts with
      | .ok bs => .ok (b :: bs)
      | .error e => .error e

/-- The decoder: strip, split, count the tokens before reading any, then read each (R146). -/
def decodeWire (w : Wire) : Except FormatError Frame :=
  let toks := splitCommas (stripTerminators w)
  if toks.length ≠ Config.frameLen then .error (.tokenCount toks.length)
  else
    match tokensBytes 0 toks with
    | .error e => .error e
    | .ok bs =>
      match frameOfBytes bs with
      | some f => .ok f
      | none => .error (.tokenCount toks.length)

/-- DECODE (`0x7`): writes `STATUS`, and `FRAME_OUT` when it is `OK` (R146). -/
def execDecode (wire : Wire) (s : State) : Host.Outcome State Fault Refusal :=
  match decodeWire wire with
  | .error e => .next (s.failFormat e)
  | .ok f => .next (s.commit s.regs { s.undefinedOut with status := .ok, frameOut := f })

/-! ### SELFCHECK -/

/-- `UNPACK_ALL(f, c)`: every field of the frame, each by UNPACK at its named range; the velocities
signed; reserved bits reported as found (44_wire_codec.md R154). -/
def unpackAll (f : Frame) (c : Byte) : DFields where
  estopActive := !extractBit hdrEstopN f.header
  datatype := extract 2 hdrDatatype f.header
  timestamp := extract 3 hdrTs f.header
  nodef := extract 2 hdrNodef f.header
  velX := s8 f.velX
  velY := s8 f.velY
  velYaw := s8 f.velYaw
  wheel := extract 2 firWheel f.firing
  fire := extract 2 firFire f.firing
  taimatu := extract 2 firTaimatu f.firing
  hand := extractBit firHand f.firing
  angle := extractBit firAngle f.firing
  speed := extractBit optSpeed f.opt2
  mg := extract 2 optMg f.opt2
  opt2Zero := extract 5 optZero f.opt2
  crcRx := f.crc
  crcCalc := c
  raw := f

/-- SELFCHECK (`0x8`): DECODE, then `CRC_OK` and `DFIELDS`; a CRC mismatch is no error (R153, R155,
R156). -/
def execSelfcheck (wire : Wire) (s : State) : Host.Outcome State Fault Refusal :=
  match decodeWire wire with
  | .error e => .next (s.failFormat e)
  | .ok f =>
    .next (s.commit s.regs
      { s.undefinedOut with
        status := .ok
        frameOut := f
        crcOk := crcOkFlag Config.hw f
        dfields := unpackAll f (crcOf Config.hw (frameBody f)) })

end Sys2Proof.Machine
end

