-- ==== Sys2Proof/Machine/Tick.lean ====
section
/-!
DEFINITION. TICK: ADVANCE, then BUILD from the new registers, then ENCODE, as one atomic command
(45_tick.md R166).
-/
namespace Sys2Proof.Machine

/-- TICK (`0x9`): writes every register, `FRAME_OUT` and `WIRE_OUT`; BUILD reads the registers ADVANCE
has just computed (45_tick.md R166, R168). -/
def execTick (btn : Buttons) (dx dy dyaw : Rat) (s : State) : Host.Outcome State Fault Refusal :=
  let regs := advanceRegs Config.hw s.regs btn
  let frame := buildFrame Config.hw regs dx dy dyaw
  .next (s.commit regs { s.undefinedOut with frameOut := frame, wireOut := encodeFrame frame })

end Sys2Proof.Machine
end

