-- ==== Sys2Proof/Machine/Dispatch.lean ====
section
/-!
DEFINITION. One arm per command of spec/opcode_table.json.
-/
namespace Sys2Proof.Machine

def exec (i : Instr) (s : State) : Host.Outcome State Fault Refusal :=
  match i with
  | .reset => Sys2Proof.Machine.execReset s
  | .pack fields => Sys2Proof.Machine.execPack fields s
  | .unpack byte off width => Sys2Proof.Machine.execUnpack byte off width s
  | .crc input => Sys2Proof.Machine.execCrc input s
  | .advance btn => Sys2Proof.Machine.execAdvance btn s
  | .build dx dy dyaw => Sys2Proof.Machine.execBuild dx dy dyaw s
  | .encode frame => Sys2Proof.Machine.execEncode frame s
  | .decode wire => Sys2Proof.Machine.execDecode wire s
  | .selfcheck wire => Sys2Proof.Machine.execSelfcheck wire s
  | .tick btn dx dy dyaw => Sys2Proof.Machine.execTick btn dx dy dyaw s

end Sys2Proof.Machine
end

