-- ==== Sys2Proof/Machine/Fetch.lean ====
section
/-!
DEFINITION. Fetching: the block has no program counter and fetches nothing (10_state.md R22); "the
host supplies each operation on the command port", so the next command is the head of the host's list
(log entry 1).
-/
namespace Sys2Proof.Machine

/-- What the command port gives the block at a step. -/
inductive Fetched where
  /-- The host issues no command. -/
  | idle
  /-- A command of the table, and the commands still to come. -/
  | command (i : Instr) (rest : List Command)
  /-- A command the decoder rejects. -/
  | rejected (r : Refusal)

/-- The refusal of a command the decoder rejects (60_exceptions.md R178). -/
def refusalOf : Reject → Refusal
  | .illegalOp op => .illegalOp op
  | .operandType port => .operandType port

/-- The command port is "read afresh for each operation" (20_memory.md R54). -/
def fetch (s : State) : Fetched :=
  match s.host with
  | [] => .idle
  | c :: rest =>
    match decode c with
    | .ok i => .command i rest
    | .error r => .rejected (refusalOf r)

/-- The state with its next command taken from the port. -/
def State.taken (s : State) (rest : List Command) : State := { s with host := rest }

/-- The command put on the port ahead of every other. -/
def State.issue (s : State) (c : Command) : State := { s with host := c :: s.host }

end Sys2Proof.Machine
end

