-- ==== Sys2Proof/Machine/Step.lean ====
section
/-!
DEFINITION. One step: one command, atomic (00_scope.md R6), or an idle wait.
-/
namespace Sys2Proof.Machine

/-- One step. With no command from the host the block "performs nothing until the host issues a
command" and "holds its registers unchanged" (70_reset_and_hazards.md R196, 60_exceptions.md R190). -/
def step (s : State) : Host.Outcome State Fault Refusal :=
  match fetch s with
  | .idle => .next s
  | .command i rest => exec i (s.taken rest)
  | .rejected r => .refused r

/-- The state whose next step runs the command of the opcode word `w`, with idle operand ports
(log entries 1 and 2). -/
def State.withFetchWord (s : State) (nbits w : Nat) : State := s.issue (commandOfWord nbits w)

end Sys2Proof.Machine
end

