-- ==== Sys2Proof/Machine/Assembly.lean ====
section
/-!
DEFINITION. The assembly text of 30_encoding.md R60: a program is a sequence of lines, one command per
line, with `;` starting a comment; a line is a mnemonic and `name=value` operands separated by commas.
The assembler gives the commands the host issues. Text is ASCII bytes, so that the characters between
the quotes of a wire operand are the message itself. `none` is text that is no program. Log entry 10
says what R60 leaves to the reader of a number.
-/
namespace Sys2Proof.Machine

/-- A token of a line. -/
inductive AsmToken where
  /-- A mnemonic, an operand's name, a button's name, or a number. -/
  | word (w : Wire)
  /-- The characters between two quotes, escapes resolved. -/
  | text (w : Wire)
  /-- One of `= , ( ) [ ]` and the two braces. -/
  | mark (ch : Byte)
  deriving DecidableEq, Repr

/-- Where the tokeniser stands: outside quotes, inside them, or after a backslash inside them. -/
inductive AsmMode where
  | plain | quoted | escaped

/-- The ASCII bytes of a string. -/
def ascii (s : String) : Wire := s.toList.map fun ch => BitVec.ofNat 8 ch.toNat

/-- The character lies between two codes. -/
def inCodes (lo hi : Nat) (ch : Byte) : Bool := decide (lo ≤ ch.toNat) && decide (ch.toNat ≤ hi)

/-- A character of a name or a number: letters, digits, `_ . - /`. -/
def isWordChar (ch : Byte) : Bool :=
  inCodes 0x30 0x39 ch || inCodes 0x41 0x5A ch || inCodes 0x61 0x7A ch ||
    ch == 0x5F || ch == 0x2E || ch == 0x2D || ch == 0x2F

/-- A mark: `= , ( ) [ ]`, and the two braces, `0x7B` and `0x7D`. -/
def isMark (ch : Byte) : Bool :=
  ch == 0x3D || ch == 0x2C || ch == 0x28 || ch == 0x29 || ch == 0x5B || ch == 0x5D ||
    ch == 0x7B || ch == 0x7D

/-- A space or a tab, or the CR of a line end. -/
def isBlank (ch : Byte) : Bool := ch == 0x20 || ch == 0x09 || ch == carriageReturn

/-- The word collected so far (its characters reversed), put before the tokens that follow. -/
def flushWord (acc : Wire) (ts : List AsmToken) : List AsmToken :=
  if acc.isEmpty then ts else .word acc.reverse :: ts

/-- The tokens of a line; `;` outside quotes starts a comment (R60). DESIGN CHOICE (log entry 10): R60
gives a quoted message no escapes but `\r` and `\n` and no way to write a quote or a backslash, so
every quote ends the message, and a backslash before any other character makes the line no program. -/
def asmTokens : AsmMode → Wire → Wire → Option (List AsmToken)
  | .plain, acc, [] => some (flushWord acc [])
  | .quoted, _, [] => none
  | .escaped, _, [] => none
  | .plain, acc, ch :: rest =>
    if ch == 0x3B then some (flushWord acc [])
    else if ch == 0x22 then (asmTokens .quoted [] rest).map (flushWord acc)
    else if isWordChar ch then asmTokens .plain (ch :: acc) rest
    else if isBlank ch then (asmTokens .plain [] rest).map (flushWord acc)
    else if isMark ch then (asmTokens .plain [] rest).map fun ts => flushWord acc (.mark ch :: ts)
    else none
  | .quoted, acc, ch :: rest =>
    if ch == 0x22 then (asmTokens .plain [] rest).map fun ts => .text acc.reverse :: ts
    else if ch == 0x5C then asmTokens .escaped acc rest
    else asmTokens .quoted (ch :: acc) rest
  | .escaped, acc, ch :: rest =>
    if ch == 0x72 then asmTokens .quoted (carriageReturn :: acc) rest
    else if ch == 0x6E then asmTokens .quoted (lineFeed :: acc) rest
    else none

/-- A digit character's value in the base, 10 or 16. -/
def digitValue (base : Nat) (ch : Byte) : Option Nat :=
  match hexValue ch with
  | some v => if v < base then some v else none
  | none => none

/-- The value of digits, most significant first, after the value so far. -/
def digitsValue (base : Nat) : Nat → Wire → Option Nat
  | v, [] => some v
  | v, ch :: rest =>
    match digitValue base ch with
    | some d => digitsValue base (v * base + d) rest
    | none => none

/-- A natural number: decimal digits, or `0x` and hex digits. -/
def asmNat (w : Wire) : Option Nat :=
  match w with
  | [] => none
  | 0x30#8 :: 0x78#8 :: d :: ds => digitsValue 16 0 (d :: ds)
  | d :: ds => digitsValue 10 0 (d :: ds)

/-- A byte: "two hex digits" (R60); the spec's own lines also write `0x` before them (P6). -/
def asmByte (w : Wire) : Option Nat :=
  match w with
  | [hi, lo] => digitsValue 16 0 [hi, lo]
  | [0x30#8, 0x78#8, hi, lo] => digitsValue 16 0 [hi, lo]
  | _ => none

/-- A duty without its sign: a decimal or a fraction (R60). -/
def asmUnsignedDuty (w : Wire) : Option Rat :=
  match w.span (· != 0x2F) with
  | (n, _ :: d) =>
    match asmNat n, asmNat d with
    | some n, some (d + 1) => some (mkRat n (d + 1))
    | _, _ => none
  | (n, []) =>
    match n.span (· != 0x2E) with
    | (whole, _ :: part) =>
      if whole.isEmpty || part.isEmpty then none
      else (digitsValue 10 0 (whole ++ part)).map fun v => mkRat v (10 ^ part.length)
    | (whole, []) => if whole.isEmpty then none else (digitsValue 10 0 whole).map fun v => mkRat v 1

/-- A duty: "a rational number written as a decimal (`0.5`, `-1`) or a fraction (`1/3`)" (R60). -/
def asmDuty (w : Wire) : Option Rat :=
  match w with
  | 0x2D#8 :: rest => (asmUnsignedDuty rest).map fun q => -q
  | _ => asmUnsignedDuty w

/-- A button's name without its `BTN_` (10_state.md R27). -/
def asmButton (w : Wire) : Option Button :=
  if w == ascii "UP" then some .up
  else if w == ascii "DOWN" then some .down
  else if w == ascii "RAPID" then some .rapid
  else if w == ascii "SINGLE" then some .single
  else if w == ascii "FWD" then some .fwd
  else if w == ascii "BACK" then some .back
  else if w == ascii "MG_A" then some .mgA
  else if w == ascii "MG_B" then some .mgB
  else if w == ascii "ESTOP_ON" then some .estopOn
  else if w == ascii "ESTOP_OFF" then some .estopOff
  else if w == ascii "STD_SPEED" then some .stdSpeed
  else if w == ascii "ANGLE" then some .angle
  else none

/-- The tokens between commas that stand outside every bracket; no token at all is no item. -/
def splitTop : Nat → List AsmToken → List (List AsmToken)
  | _, [] => [[]]
  | depth, t :: ts =>
    let deeper := t == .mark 0x28 || t == .mark 0x5B || t == .mark 0x7B
    let shallower := t == .mark 0x29 || t == .mark 0x5D || t == .mark 0x7D
    if depth == 0 && t == .mark 0x2C then [] :: splitTop 0 ts
    else
      match splitTop (if deeper then depth + 1 else if shallower then depth - 1 else depth) ts with
      | [] => [[t]]
      | u :: us => (t :: u) :: us

/-- The items of a bracketed list: the tokens between its two marks, split at commas. -/
def asmItems (opening closing : Byte) (ts : List AsmToken) : Option (List (List AsmToken)) :=
  match ts with
  | .mark o :: rest =>
    match rest.reverse with
    | .mark c :: inner =>
      if o == opening && c == closing then
        some (if inner.isEmpty then [] else splitTop 0 inner.reverse)
      else none
    | _ => none
  | _ => none

/-- An item that is one word, read by `f`. -/
def asmWord {α : Type} (f : Wire → Option α) (ts : List AsmToken) : Option α :=
  match ts with
  | [.word w] => f w
  | _ => none

/-- `<buttons>`: "either a 12-bit number or a set of button names"; the set is its buttons' bits (R60). -/
def asmButtons (ts : List AsmToken) : Option Nat :=
  match asmWord asmNat ts with
  | some n => some n
  | none =>
    match asmItems 0x7B 0x7D ts with
    | some items =>
      (items.mapM (asmWord asmButton)).map fun bs =>
        bs.foldl (fun v b => v ||| 2 ^ buttonBit b) 0
    | none => none

/-- One triple `(off,width,value)`. -/
def asmField (ts : List AsmToken) : Option Field :=
  match asmItems 0x28 0x29 ts with
  | some [a, b, c] =>
    match asmWord asmNat a, asmWord asmNat b, asmWord asmNat c with
    | some off, some width, some value => some ⟨off, width, value⟩
    | _, _, _ => none
  | _ => none

/-- A list of bytes in square brackets. -/
def asmBytes (ts : List AsmToken) : Option (List Nat) :=
  match asmItems 0x5B 0x5D ts with
  | some items => items.mapM (asmWord asmByte)
  | none => none

/-- A list of triples in square brackets. -/
def asmFields (ts : List AsmToken) : Option (List Field) :=
  match asmItems 0x5B 0x5D ts with
  | some items => items.mapM asmField
  | none => none

/-- A quoted message. -/
def asmMessage (ts : List AsmToken) : Option (List Nat) :=
  match ts with
  | [.text w] => some (w.map BitVec.toNat)
  | _ => none

/-- One `name=value` operand: its name and its value's tokens. -/
def asmOperand (ts : List AsmToken) : Option (Wire × List AsmToken) :=
  match ts with
  | .word name :: .mark 0x3D#8 :: value => some (name, value)
  | _ => none

/-- The value of the operand of that name. -/
def asmValue (ops : List (Wire × List AsmToken)) (name : String) : Option (List AsmToken) :=
  (ops.find? fun p => p.1 == ascii name).map fun p => p.2

/-- The ports a mnemonic's operands set, and its operation code (R57, R60). The operands are those R60
lists for the mnemonic, each once. -/
def asmCommand (mnemonic : Wire) (ops : List (Wire × List AsmToken)) : Option Command :=
  let value := asmValue ops
  let idle := Ports.idle
  if mnemonic == ascii "RESET" then
    if ops.length == 0 then some ⟨0x0, idle⟩ else none
  else if mnemonic == ascii "PACK" then do
    let fields ← (← value "fields") |> asmFields
    if ops.length == 1 then some ⟨0x1, { idle with fields := fields }⟩ else none
  else if mnemonic == ascii "UNPACK" then do
    let b ← (← value "byte") |> asmWord asmByte
    let off ← (← value "off") |> asmWord asmNat
    let width ← (← value "width") |> asmWord asmNat
    if ops.length == 3 then some ⟨0x2, { idle with ubyte := b, uoff := off, uwidth := width }⟩
    else none
  else if mnemonic == ascii "CRC" then do
    let bs ← (← value "in") |> asmBytes
    if ops.length == 1 then some ⟨0x3, { idle with crcIn := bs }⟩ else none
  else if mnemonic == ascii "ADVANCE" then do
    let btn ← (← value "btn") |> asmButtons
    if ops.length == 1 then some ⟨0x4, { idle with btn := btn }⟩ else none
  else if mnemonic == ascii "BUILD" then do
    let dx ← (← value "dx") |> asmWord asmDuty
    let dy ← (← value "dy") |> asmWord asmDuty
    let dyaw ← (← value "dyaw") |> asmWord asmDuty
    if ops.length == 3 then some ⟨0x5, { idle with dutyX := dx, dutyY := dy, dutyYaw := dyaw }⟩
    else none
  else if mnemonic == ascii "ENCODE" then do
    let bs ← (← value "frame") |> asmBytes
    if ops.length == 1 then some ⟨0x6, { idle with frameIn := bs }⟩ else none
  else if mnemonic == ascii "DECODE" then do
    let w ← (← value "wire") |> asmMessage
    if ops.length == 1 then some ⟨0x7, { idle with wireIn := w }⟩ else none
  else if mnemonic == ascii "SELFCHECK" then do
    let w ← (← value "wire") |> asmMessage
    if ops.length == 1 then some ⟨0x8, { idle with wireIn := w }⟩ else none
  else if mnemonic == ascii "TICK" then do
    let btn ← (← value "btn") |> asmButtons
    let dx ← (← value "dx") |> asmWord asmDuty
    let dy ← (← value "dy") |> asmWord asmDuty
    let dyaw ← (← value "dyaw") |> asmWord asmDuty
    if ops.length == 4 then
      some ⟨0x9, { idle with btn := btn, dutyX := dx, dutyY := dy, dutyYaw := dyaw }⟩
    else none
  else none

/-- One line: no command where it is blank or a comment, else "exactly one command" (R60). -/
def assembleLine (line : Wire) : Option (List Command) :=
  match asmTokens .plain [] line with
  | none => none
  | some [] => some []
  | some (.word mnemonic :: rest) =>
    match (if rest.isEmpty then some [] else (splitTop 0 rest).mapM asmOperand) with
    | some ops => (asmCommand mnemonic ops).map fun c => [c]
    | none => none
  | some _ => none

/-- The lines of a text. -/
def asmLines : Wire → List Wire
  | [] => [[]]
  | ch :: rest =>
    if ch == lineFeed then [] :: asmLines rest
    else
      match asmLines rest with
      | [] => [[ch]]
      | l :: ls => (ch :: l) :: ls

/-- A program: the commands of its lines, in order (R60). -/
def assemble (program : Wire) : Option (List Command) :=
  ((asmLines program).mapM assembleLine).map List.flatten

end Sys2Proof.Machine
end

