-- ==== Sys2Proof/Machine/Reference.lean ====
section
/-!
DEFINITION. The spec's reference instances of the OPEN parameters (42_state_tracker.md R106, R109;
43_frame_assembler.md R128), which its test vectors assume. They are NOT the block's: "A reader must
not assume the reference instance of rule R106 is the original hardware's behaviour" (R105). No
meaning uses them; tests do.
-/
namespace Sys2Proof.Machine

/-- `TAIMATU_REF` (42_state_tracker.md R106). -/
def taimatuRef {n : Nat} (_t : BitVec 2) (_p c : BitVec n) : Fin 3 :=
  if held c .up && !held c .down then 1
  else if held c .down && !held c .up then 2
  else 0

/-- `MG_REF` (42_state_tracker.md R109): the B edge wins. -/
def mgRef (m : BitVec 2) (pa pb ca cb : Bool) : BitVec 2 :=
  let r := if !pa && ca then 1 else m
  if !pb && cb then 0 else r

/-- The reference configuration of 00_scope.md R7. -/
def referenceConfig : Config :=
  { Config.hw with taimatuFn := taimatuRef, mgFn := mgRef, estopZeroVel := false }

end Sys2Proof.Machine
end

