-- ==== Sys2Proof/Safety.lean ====
section
/-!
DEFINITION. What a legal state is, and what a run may do: the invariant `INV` of 10_state.md R36, the
length of the `WIRE_OUT` port (R39), and a step that is not refused.
-/
namespace Sys2Proof.Machine

/-- `INV` on the registers (10_state.md R36): "`TS` <= 7, `WHEEL` <= 3, `FIRE` is in {`FIRE_CODE_IDLE`,
`FIRE_CODE_SINGLE`, `FIRE_CODE_RAPID`}, and `TAIMATU` <= 2". -/
def RegsOf.Inv (cfg : Config) (r : RegsOf cfg.nbtn) : Prop :=
  r.ts.toNat ≤ 7 ∧ r.wheel.toNat ≤ 3 ∧
    (r.fire = cfg.fireIdle ∨ r.fire = cfg.fireSingle ∨ r.fire = cfg.fireRapid) ∧
    r.taimatu.toNat ≤ 2

/-- A legal state: the registers satisfy `INV`, and `WIRE_OUT` has its 22 characters (R39). -/
def State.Inv (s : State) : Prop :=
  s.regs.Inv Config.hw ∧ s.out.wireOut.length = Config.wireLen

/-- The step is not refused. -/
def State.Safe (s : State) : Prop := ∃ t, step s = .next t

end Sys2Proof.Machine
end

