-- ==== Sys2Proof/Certificates/Slice0/Obligations.lean ====
section
/-!
DEFINITION. The statements for the provers, and the vocabulary they are written in. Where a docstring
says "the spec's own decision D<n>" or "the spec's derivation", the clause rests on that mark of the
spec and not on its source. No statement rests on a value of a free or OPEN parameter. A result port
that a command does not write is undefined (10_state.md R39), so a frame says nothing about it; it
says that the registers and the commands still to come stay. The block has no memory (20_memory.md
R41), so a frame has none to speak of.
-/
namespace Sys2Proof.Claims

open Sys2Proof Sys2Proof.Machine

/-- Bit `k` rises between the previous vector `p` and the current vector `c`, by bit number. -/
def edge (p c : Buttons) (k : Nat) : Bool := !p.getLsbD k && c.getLsbD k

/-- One cell of the firing byte under ESTOP: forced to 0. -/
def unlessEstop (r : Regs) (v : Nat) : Nat := if r.estop then 0 else v

/-- The number a bit stands for. -/
def bitNat (b : Bool) : Nat := if b then 1 else 0

/-- The signed velocity of a duty: `127 * d` rounded toward zero, then clamped to -127..127
(43_frame_assembler.md R122, R123), by floor and ceiling. -/
def velocityOf (d : Rat) : Int :=
  max (-127) (min 127 (if 0 ≤ d then Rat.floor (127 * d) else Rat.ceil (127 * d)))

/-- The codes of `'0'`-`'9'` and `'a'`-`'f'` (20_memory.md R46). -/
def lowerHexCodes : List Byte :=
  [0x30, 0x31, 0x32, 0x33, 0x34, 0x35, 0x36, 0x37, 0x38, 0x39, 0x61, 0x62, 0x63, 0x64, 0x65, 0x66]

/-- The grammar of 30_encoding.md R68: 22 bytes, seven lowercase hex pairs with a comma after each of
the first six, then CR LF. -/
def IsWireMessage (w : Wire) : Prop :=
  w.length = 22 ∧
    ∀ j ch, wireChar w j = some ch →
      (j < 20 ∧ j % 3 ≠ 2 ∧ ch ∈ lowerHexCodes) ∨ (j < 20 ∧ j % 3 = 2 ∧ ch = 0x2C) ∨
        (j = 20 ∧ ch = 0x0D) ∨ (j = 21 ∧ ch = 0x0A)

/-- `ch` is a hex digit of value `v`, of either case (44_wire_codec.md R146). -/
def IsHexDigit (ch : Byte) (v : Nat) : Prop :=
  (v < 10 ∧ ch.toNat = 0x30 + v) ∨
    (10 ≤ v ∧ v < 16 ∧ (ch.toNat = 0x61 + (v - 10) ∨ ch.toNat = 0x41 + (v - 10)))

/-- The token is exactly two hex digits, and they write the byte. -/
def TokenWrites (tok : Wire) (b : Byte) : Prop :=
  ∃ hi lo h l, tok = [hi, lo] ∧ IsHexDigit hi h ∧ IsHexDigit lo l ∧ b.toNat = 16 * h + l

/-- The character is CR or LF. -/
def IsLineEnd (ch : Byte) : Prop := ch = 0x0D ∨ ch = 0x0A

/-- The message is these tokens, comma-separated, and then only CR and LF characters, none of which
ends the last token: the reading 44_wire_codec.md R146 and R147 give it. -/
def SplitsInto (w : Wire) (toks : List Wire) : Prop :=
  ∃ term : Wire, w = joinCommas toks ++ term ∧ (∀ ch ∈ term, IsLineEnd ch) ∧
    (∀ tok ∈ toks, (0x2C : Byte) ∉ tok) ∧ toks ≠ [] ∧
    (∀ ch ∈ (joinCommas toks).getLast?, ¬ IsLineEnd ch)

/-- The fields of the byte `b` at the given ranges. -/
def unpackedFields (b : Byte) (ranges : List BitRange) : List Field :=
  ranges.map fun r => ⟨r.off, r.width, (unpackByte b r.off r.width).toNat⟩

/-- A sequence of `n` bytes. -/
def AreBytes (n : Nat) (vs : List Nat) : Prop := vs.length = n ∧ ∀ v ∈ vs, v < 256

/-- The conditions of the table of 60_exceptions.md R178, in R177's order, for a command on the port. -/
def RefusedBecause (c : Command) : Refusal → Prop
  | .illegalOp op => op = c.op ∧ 0xA ≤ c.op.toNat
  | .operandType .ubyte => c.op = 0x2 ∧ 256 ≤ c.ports.ubyte
  | .operandType .crcIn => c.op = 0x3 ∧ ¬ AreBytes 6 c.ports.crcIn
  | .operandType .btn => (c.op = 0x4 ∨ c.op = 0x9) ∧ 4096 ≤ c.ports.btn
  | .operandType .frameIn => c.op = 0x6 ∧ ¬ AreBytes 7 c.ports.frameIn
  | .operandType .wireIn => (c.op = 0x7 ∨ c.op = 0x8) ∧ ∃ v ∈ c.ports.wireIn, 256 ≤ v
  | .packRange => c.op = 0x1 ∧ fieldsInRange c.ports.fields = false
  | .packOverlap =>
    c.op = 0x1 ∧ fieldsInRange c.ports.fields = true ∧ fieldsDisjoint c.ports.fields = false
  | .packCover =>
    c.op = 0x1 ∧ fieldsInRange c.ports.fields = true ∧ fieldsDisjoint c.ports.fields = true ∧
      fieldsCover c.ports.fields = false
  | .packValue =>
    c.op = 0x1 ∧ fieldsInRange c.ports.fields = true ∧ fieldsDisjoint c.ports.fields = true ∧
      fieldsCover c.ports.fields = true ∧ fieldsFit c.ports.fields = false
  | .unpackRange =>
    c.op = 0x2 ∧ c.ports.ubyte < 256 ∧ ¬ (1 ≤ c.ports.uwidth ∧ c.ports.uoff + c.ports.uwidth ≤ 8)
  | _ => False

/-- The operand ports a command's rule names carry the same values (10_state.md R39). -/
def SamePorts (i : Instr) (p q : Ports) : Prop :=
  match i with
  | .reset => True
  | .pack _ => p.fields = q.fields
  | .unpack _ _ _ => p.ubyte = q.ubyte ∧ p.uoff = q.uoff ∧ p.uwidth = q.uwidth
  | .crc _ => p.crcIn = q.crcIn
  | .advance _ => p.btn = q.btn
  | .build _ _ _ => p.dutyX = q.dutyX ∧ p.dutyY = q.dutyY ∧ p.dutyYaw = q.dutyYaw
  | .encode _ => p.frameIn = q.frameIn
  | .decode _ => p.wireIn = q.wireIn
  | .selfcheck _ => p.wireIn = q.wireIn
  | .tick _ _ _ _ =>
    p.btn = q.btn ∧ p.dutyX = q.dutyX ∧ p.dutyY = q.dutyY ∧ p.dutyYaw = q.dutyYaw

/-- The button vector the command gives the tracker, if any. -/
def trackerInput : Instr → Option Buttons
  | .advance btn => some btn
  | .tick btn _ _ _ => some btn
  | _ => none

/-- A byte as a polynomial over GF(2): `b(X) = sum b[i] X^i` (41_crc_engine.md R90). -/
noncomputable def byteX (b : Byte) : Polynomial (ZMod 2) :=
  ∑ i ∈ Finset.range 8, if b.getLsbD i then Polynomial.X ^ i else 0

/-- `P(X) = X^8 + X^7 + X^6 + X^5 + X^3 + X + 1` (R90). -/
noncomputable def crcModulus : Polynomial (ZMod 2) :=
  Polynomial.X ^ 8 + Polynomial.X ^ 7 + Polynomial.X ^ 6 + Polynomial.X ^ 5 + Polynomial.X ^ 3 +
    Polynomial.X + 1

/-- `sum_{k=0..5} CRC_IN[k](X) * X^(7*(6-k))` (R90). -/
noncomputable def blockX (m : CrcBlock) : Polynomial (ZMod 2) :=
  byteX m.b0 * Polynomial.X ^ 42 + byteX m.b1 * Polynomial.X ^ 35 +
    byteX m.b2 * Polynomial.X ^ 28 + byteX m.b3 * Polynomial.X ^ 21 +
    byteX m.b4 * Polynomial.X ^ 14 + byteX m.b5 * Polynomial.X ^ 7

/-- The CRC's parameters free, but for the polynomial and the 7 iterations (R92: "This holds for every
value of `CRC_INIT` and `CRC_XOROUT`"). -/
def crcConfig (init xorOut : Byte) : Config := { Config.hw with crcInit := init, crcXorOut := xorOut }

/-- The block XORed with `e`, byte by byte. -/
def xorBlock (m e : CrcBlock) : CrcBlock :=
  ⟨m.b0 ^^^ e.b0, m.b1 ^^^ e.b1, m.b2 ^^^ e.b2, m.b3 ^^^ e.b3, m.b4 ^^^ e.b4, m.b5 ^^^ e.b5⟩

/-- The error pattern is `e` in byte `k` and 0 in the others. -/
def errorIn (k : Fin 6) (e : Byte) : CrcBlock :=
  let at' (j : Fin 6) : Byte := if j = k then e else 0
  ⟨at' 0, at' 1, at' 2, at' 3, at' 4, at' 5⟩

/-- Rows 0 to 7 of the table `T7` of 41_crc_engine.md R89. -/
def t7Low : List Byte :=
  [0x00, 0x80, 0xeb, 0x6b, 0x3d, 0xbd, 0xd6, 0x56, 0x7a, 0xfa, 0x91, 0x11, 0x47, 0xc7, 0xac, 0x2c] ++
  [0xf4, 0x74, 0x1f, 0x9f, 0xc9, 0x49, 0x22, 0xa2, 0x8e, 0x0e, 0x65, 0xe5, 0xb3, 0x33, 0x58, 0xd8] ++
  [0x03, 0x83, 0xe8, 0x68, 0x3e, 0xbe, 0xd5, 0x55, 0x79, 0xf9, 0x92, 0x12, 0x44, 0xc4, 0xaf, 0x2f] ++
  [0xf7, 0x77, 0x1c, 0x9c, 0xca, 0x4a, 0x21, 0xa1, 0x8d, 0x0d, 0x66, 0xe6, 0xb0, 0x30, 0x5b, 0xdb] ++
  [0x06, 0x86, 0xed, 0x6d, 0x3b, 0xbb, 0xd0, 0x50, 0x7c, 0xfc, 0x97, 0x17, 0x41, 0xc1, 0xaa, 0x2a] ++
  [0xf2, 0x72, 0x19, 0x99, 0xcf, 0x4f, 0x24, 0xa4, 0x88, 0x08, 0x63, 0xe3, 0xb5, 0x35, 0x5e, 0xde] ++
  [0x05, 0x85, 0xee, 0x6e, 0x38, 0xb8, 0xd3, 0x53, 0x7f, 0xff, 0x94, 0x14, 0x42, 0xc2, 0xa9, 0x29] ++
  [0xf1, 0x71, 0x1a, 0x9a, 0xcc, 0x4c, 0x27, 0xa7, 0x8b, 0x0b, 0x60, 0xe0, 0xb6, 0x36, 0x5d, 0xdd]

/-- Rows 8 to F of the table `T7`. -/
def t7High : List Byte :=
  [0x0c, 0x8c, 0xe7, 0x67, 0x31, 0xb1, 0xda, 0x5a, 0x76, 0xf6, 0x9d, 0x1d, 0x4b, 0xcb, 0xa0, 0x20] ++
  [0xf8, 0x78, 0x13, 0x93, 0xc5, 0x45, 0x2e, 0xae, 0x82, 0x02, 0x69, 0xe9, 0xbf, 0x3f, 0x54, 0xd4] ++
  [0x0f, 0x8f, 0xe4, 0x64, 0x32, 0xb2, 0xd9, 0x59, 0x75, 0xf5, 0x9e, 0x1e, 0x48, 0xc8, 0xa3, 0x23] ++
  [0xfb, 0x7b, 0x10, 0x90, 0xc6, 0x46, 0x2d, 0xad, 0x81, 0x01, 0x6a, 0xea, 0xbc, 0x3c, 0x57, 0xd7] ++
  [0x0a, 0x8a, 0xe1, 0x61, 0x37, 0xb7, 0xdc, 0x5c, 0x70, 0xf0, 0x9b, 0x1b, 0x4d, 0xcd, 0xa6, 0x26] ++
  [0xfe, 0x7e, 0x15, 0x95, 0xc3, 0x43, 0x28, 0xa8, 0x84, 0x04, 0x6f, 0xef, 0xb9, 0x39, 0x52, 0xd2] ++
  [0x09, 0x89, 0xe2, 0x62, 0x34, 0xb4, 0xdf, 0x5f, 0x73, 0xf3, 0x98, 0x18, 0x4e, 0xce, 0xa5, 0x25] ++
  [0xfd, 0x7d, 0x16, 0x96, 0xc0, 0x40, 0x2b, 0xab, 0x87, 0x07, 0x6c, 0xec, 0xba, 0x3a, 0x51, 0xd1]

/-- The table `T7`: row = high nibble, column = low nibble. -/
def t7 (x : Byte) : Byte := (t7Low ++ t7High).getD x.toNat 0

end Sys2Proof.Claims

open Sys2Proof Sys2Proof.Machine Sys2Proof.Claims

/-! ### The command port -/

/-- 20_memory.md R52, R54 (the second the spec's own decision D2), on the model's choice of where the
host's commands stand (log entry 1, DESIGN CHOICE) and its deduction that a step is one whole command
(log entry 11, DEDUCED): the head of the host's commands, if it decodes to `i`, is taken and `i` is
performed. -/
def Obligations.StepRunsDecodedCommand : Prop :=
  ∀ (s : State) (c : Command) (rest : List Command) (i : Instr),
    s.host = c :: rest → decode c = .ok i → step s = exec i { s with host := rest }

/-- The model's deduction, log entry 11 (DEDUCED), on its own list of host commands (log entry 1,
DESIGN CHOICE): a step with no command from the host keeps everything, result ports included. No rule
gives a step without a command; 60_exceptions.md R190 holds the registers between commands, and
70_reset_and_hazards.md R196 has the block perform nothing until one comes. -/
def Obligations.IdleStepKeepsState : Prop :=
  ∀ s : State, s.host = [] → step s = .next s

/-- 30_encoding.md R58, 60_exceptions.md R177 (the spec's own decisions D1, D25): a reserved opcode is
refused whatever stands on the operand ports. -/
def Obligations.ReservedOpcodesAreRefused : Prop :=
  ∀ (s : State) (c : Command) (rest : List Command),
    s.host = c :: rest → 0xA ≤ c.op.toNat → step s = .refused (.illegalOp c.op)

/-- 60_exceptions.md R177, R178 (the spec's own decisions D23, D25) and the model's log entry 9: a step
is refused exactly when the command on the port meets a condition of R178's table, in R177's order,
and by that reason; in every other case it answers a next state. -/
def Obligations.StepRefusesExactlyTheTableOfReasons : Prop :=
  (∀ (s : State) (r : Refusal),
    step s = .refused r ↔ ∃ c rest, s.host = c :: rest ∧ RefusedBecause c r) ∧
  (∀ s : State, (∀ c rest r, s.host = c :: rest → ¬ RefusedBecause c r) → ∃ t, step s = .next t)

/-- The decoder reads back every command the encoder writes, with every operand. -/
def Obligations.DecodeOfEncode : Prop := ∀ i : Instr, decode (encode i) = .ok i

/-- What the decoder accepts is what the encoder writes, on the opcode and on every port that the
command's rule names. -/
def Obligations.EncodeOfDecode : Prop :=
  ∀ (c : Command) (i : Instr), decode c = .ok i →
    (encode i).op = c.op ∧ SamePorts i (encode i).ports c.ports

/-- 30_encoding.md R57, R58 (the spec's own decision D1): the ten words of spec/opcode_table.json,
written out, and the six reserved codes. The operands are those of the idle ports, the model's choice
(log entry 2, DESIGN CHOICE). -/
def Obligations.TableWordsDecode : Prop :=
  decodeTableWord 8 0b0000 = some .reset ∧
    decodeTableWord 8 0b0001 = some (.pack [⟨0, 8, 0⟩]) ∧
    decodeTableWord 8 0b0010 = some (.unpack 0 0 8) ∧
    decodeTableWord 8 0b0011 = some (.crc ⟨0, 0, 0, 0, 0, 0⟩) ∧
    decodeTableWord 8 0b0100 = some (.advance 0) ∧
    decodeTableWord 8 0b0101 = some (.build 0 0 0) ∧
    decodeTableWord 8 0b0110 = some (.encode ⟨0, 0, 0, 0, 0, 0, 0⟩) ∧
    decodeTableWord 8 0b0111 = some (.decode []) ∧
    decodeTableWord 8 0b1000 = some (.selfcheck []) ∧
    decodeTableWord 8 0b1001 = some (.tick 0 0 0 0) ∧
    decodeTableWord 8 0b1010 = none ∧ decodeTableWord 8 0b1011 = none ∧
    decodeTableWord 8 0b1100 = none ∧ decodeTableWord 8 0b1101 = none ∧
    decodeTableWord 8 0b1110 = none ∧ decodeTableWord 8 0b1111 = none

/-- 30_encoding.md R60 (the spec's own decision D1) and the model's log entry 10: a RESET line with a
comment, and a TICK line with a hexadecimal button vector and an integer, a negative and a fractional
duty, assemble to their commands. The two lines are the model's own examples of R60's forms. -/
def Obligations.AssemblerReadsProgramLines : Prop :=
  assembleLine (ascii "RESET  ; power-up") = some [encode .reset] ∧
    assembleLine (ascii "TICK btn=0x000, dx=0, dy=-1, dyaw=1/3") =
      some [encode (.tick 0 0 (-1) (1 / 3))]

/-! ### State, reset and the whole machine -/

/-- 10_state.md R38, 70_reset_and_hazards.md R195 (the spec's own decision D18): the registers at
power-up. -/
def Obligations.PowerUpRegisters : Prop :=
  State.reset.regs.ts = 0 ∧ State.reset.regs.wheel = 0 ∧
    State.reset.regs.fire = Config.hw.fireIdle ∧ State.reset.regs.taimatu = 0 ∧
    State.reset.regs.hand = false ∧ State.reset.regs.mg = 0 ∧ State.reset.regs.estop = false ∧
    State.reset.regs.speed = false ∧ State.reset.regs.angle = false ∧ State.reset.regs.prev = 0

/-- 10_state.md R36: the state at power-up satisfies `INV`, and its `WIRE_OUT` (the model's choice, log
entry 4) has 22 characters. -/
def Obligations.PowerUpSatisfiesInv : Prop := State.Inv State.reset

/-- 10_state.md R36, 42_state_tracker.md R118 (the spec's derivations): every step keeps `INV` on the
registers and the 22 characters of `WIRE_OUT`, whatever `TAIMATU_FN`, `MG_FN` and the free values are. -/
def Obligations.StepKeepsInv : Prop :=
  ∀ s t : State, State.Inv s → step s = .next t → State.Inv t

/-- 10_state.md R37: no command but RESET, ADVANCE and TICK changes a register, and a command changes
none of the commands still to come. -/
def Obligations.OnlyTrackerCommandsWriteRegisters : Prop :=
  ∀ (s t : State) (c : Command) (rest : List Command), s.host = c :: rest → step s = .next t →
    t.host = rest ∧ (c.op ≠ 0x0 → c.op ≠ 0x4 → c.op ≠ 0x9 → t.regs = s.regs)

/-- 42_state_tracker.md R119 (the spec's derivation), over every step of the machine: outside RESET,
the latches `HAND` and `ESTOP` change only on a rising edge of one of their two buttons, `WHEEL` only
on a D-pad edge, and `TS` exactly in a command that gives the tracker a vector. -/
def Obligations.LatchesChangeOnlyOnTheirEdges : Prop :=
  ∀ (s t : State) (c : Command) (rest : List Command) (i : Instr),
    s.host = c :: rest → decode c = .ok i → i ≠ .reset → step s = .next t →
      (t.regs.hand ≠ s.regs.hand →
        ∃ b, trackerInput i = some b ∧ (edge s.regs.prev b 4 = true ∨ edge s.regs.prev b 5 = true)) ∧
      (t.regs.estop ≠ s.regs.estop →
        ∃ b, trackerInput i = some b ∧ (edge s.regs.prev b 8 = true ∨ edge s.regs.prev b 9 = true)) ∧
      (t.regs.wheel ≠ s.regs.wheel →
        ∃ b, trackerInput i = some b ∧ (edge s.regs.prev b 0 = true ∨ edge s.regs.prev b 1 = true)) ∧
      (t.regs.ts ≠ s.regs.ts ↔ ∃ b, trackerInput i = some b)

/-- 70_reset_and_hazards.md R195, R197 (the spec's own decision D18): from every state RESET completes
and leaves the registers as at power-up. -/
def Obligations.ResetRestoresPowerUpRegisters : Prop :=
  ∀ s : State, ∃ t, exec .reset s = .next t ∧ t.regs = State.reset.regs ∧ t.host = s.host

/-- 70_reset_and_hazards.md R199 (the spec's derivation): after RESET the first TICK's header is `0xA4`
unless the host presents `BTN_ESTOP_ON` pressed, which, held through the reset or not, makes it `0x24`. -/
def Obligations.FirstFrameAfterReset : Prop :=
  ∀ (s : State) (btn : Buttons) (dx dy dyaw : Rat), ∃ t u,
    exec .reset s = .next t ∧ exec (.tick btn dx dy dyaw) t = .next u ∧
      u.out.frameOut.header = if btn.getLsbD 8 then 0x24 else 0xA4

/-! ### Bit-field codec -/

/-- 40_bitfield_codec.md R76, R78 (the second the spec's derivation): a well-formed PACK completes, and
bit `off + k` of `RBYTE` is bit `k` of the field's value, for every field; the registers stay. -/
def Obligations.PackPlacesEveryField : Prop :=
  ∀ (s : State) (fields : List Field), packWellFormed fields = true →
    ∃ t, exec (.pack fields) s = .next t ∧ t.regs = s.regs ∧ t.host = s.host ∧
      ∀ f ∈ fields, ∀ k, k < f.width → t.out.rbyte.getLsbD (f.off + k) = f.value.testBit k

/-- 40_bitfield_codec.md R78 (the spec's derivation): the order of the triples does not matter. -/
def Obligations.PackIgnoresFieldOrder : Prop :=
  ∀ (s : State) (fields fields' : List Field), fields.Perm fields' → packWellFormed fields = true →
    ∃ t t', exec (.pack fields) s = .next t ∧ exec (.pack fields') s = .next t' ∧
      t.out.rbyte = t'.out.rbyte

/-- 40_bitfield_codec.md R80, with R81's refusal (the spec's own decision D23): UNPACK's opcode is 2; it
writes the range as an unsigned number, zero-extended, and is refused outside the byte. -/
def Obligations.UnpackExtractsUnsignedRange : Prop :=
  ∀ (s : State) (b : Byte) (off width : Nat),
    (encode (.unpack b off width)).op = 2 ∧
    if 1 ≤ width ∧ off + width ≤ 8 then
      ∃ t, exec (.unpack b off width) s = .next t ∧ t.regs = s.regs ∧ t.host = s.host ∧
        t.out.rbyte.toNat = b.toNat / 2 ^ off % 2 ^ width
    else exec (.unpack b off width) s = .refused .unpackRange

/-- 40_bitfield_codec.md R82 (the spec's derivation): UNPACK of PACK's byte at a field's range gives the
field's value. -/
def Obligations.UnpackInvertsPack : Prop :=
  ∀ (s : State) (fields : List Field) (f : Field), packWellFormed fields = true → f ∈ fields →
    ∃ t u, exec (.pack fields) s = .next t ∧
      exec (.unpack t.out.rbyte f.off f.width) t = .next u ∧ u.out.rbyte.toNat = f.value

/-- 40_bitfield_codec.md R83 (the spec's derivation): PACK of a byte's fields at ranges that are disjoint
and cover all 8 bits gives the byte back. -/
def Obligations.PackInvertsUnpack : Prop :=
  ∀ (s : State) (b : Byte) (ranges : List BitRange),
    packWellFormed (ranges.map fun r => ⟨r.off, r.width, 0⟩) = true →
    ∃ t, exec (.pack (unpackedFields b ranges)) s = .next t ∧ t.out.rbyte = b

/-- 43_frame_assembler.md R130 (the spec's derivation): every PACK in BUILD meets PACK's obligations, in
every configuration and every register state. -/
def Obligations.BuildPacksAreNeverRefused : Prop :=
  ∀ (cfg : Config) (r : RegsOf cfg.nbtn) (fields : List Field),
    (fields = headerFields cfg r ∨ fields = firingFields r ∨ fields = opt2Fields r) →
      packWellFormed fields = true ∧ packRefusal fields = none

/-! ### CRC engine -/

/-- 41_crc_engine.md R89 (the spec's derivation): CRC completes, and its byte is the table form's, with
the table `T7` as the spec prints it. -/
def Obligations.CrcIsTheTableForm : Prop :=
  ∀ (s : State) (m : CrcBlock),
    ∃ t, exec (.crc m) s = .next t ∧ t.regs = s.regs ∧ t.host = s.host ∧
      t.out.rbyte = [m.b0, m.b1, m.b2, m.b3, m.b4, m.b5].foldl (fun c b => t7 (c ^^^ b)) 0

/-- 41_crc_engine.md R90 (the spec's derivation): CRC completes with the remainder of the message
polynomial modulo `P(X)`; with any `CRC_INIT` and `CRC_XOROUT` the constant terms of R90 are added. -/
def Obligations.CrcIsAPolynomialRemainder : Prop :=
  (∀ (s : State) (m : CrcBlock), ∃ t, exec (.crc m) s = .next t ∧
    byteX t.out.rbyte = Polynomial.modByMonic (blockX m) crcModulus) ∧
  (∀ (init xorOut : Byte) (m : CrcBlock),
    byteX (crcOf (crcConfig init xorOut) m) =
      Polynomial.modByMonic (byteX init * Polynomial.X ^ 42 + blockX m) crcModulus + byteX xorOut)

/-- 41_crc_engine.md R92 (the spec's derivation): changing any bits of one input byte changes the CRC,
for every `CRC_INIT` and `CRC_XOROUT`. -/
def Obligations.CrcDetectsEveryErrorInOneByte : Prop :=
  ∀ (init xorOut : Byte) (m : CrcBlock) (k : Fin 6) (e : Byte), e ≠ 0 →
    crcOf (crcConfig init xorOut) (xorBlock m (errorIn k e)) ≠ crcOf (crcConfig init xorOut) m

/-- 41_crc_engine.md R90 (the spec's derivation): under this hardware's parameters CRC is linear. -/
def Obligations.CrcIsLinear : Prop :=
  ∀ (s : State) (m e : CrcBlock), ∃ t u v,
    exec (.crc m) s = .next t ∧ exec (.crc e) s = .next u ∧ exec (.crc (xorBlock m e)) s = .next v ∧
      v.out.rbyte = t.out.rbyte ^^^ u.out.rbyte

/-! ### Protocol state tracker -/

/-- 42_state_tracker.md R98: after `n` ADVANCEs from a state with `TS = t`, `TS = (t + n) mod 8`,
whatever the vectors. -/
def Obligations.AdvancesCountTimestampModulo8 : Prop :=
  ∀ (btns : List Buttons) (s : State), s.host = btns.map (fun b => encode (.advance b)) →
    ∃ t, Sys2Proof.core.run btns.length s = .next t ∧
      t.regs.ts.toNat = (s.regs.ts.toNat + btns.length) % 8 ∧ t.host = []

/-- 42_state_tracker.md R99: an up edge alone steps the wheel up, clamped at 3; a down edge alone steps
it down, clamped at 0; with neither edge it stays. -/
def Obligations.AdvanceStepsWheelOnEdges : Prop :=
  ∀ (s : State) (btn : Buttons), ∃ t, exec (.advance btn) s = .next t ∧ t.host = s.host ∧
    (edge s.regs.prev btn 0 = true → edge s.regs.prev btn 1 = false →
      t.regs.wheel.toNat = if s.regs.wheel.toNat = 3 then 3 else s.regs.wheel.toNat + 1) ∧
    (edge s.regs.prev btn 0 = false → edge s.regs.prev btn 1 = true →
      t.regs.wheel.toNat = if s.regs.wheel.toNat = 0 then 0 else s.regs.wheel.toNat - 1) ∧
    (edge s.regs.prev btn 0 = false → edge s.regs.prev btn 1 = false → t.regs.wheel = s.regs.wheel)

/-- 42_state_tracker.md R100, R107, R111 (the spec's own decision D10): both edges of one pair in one
ADVANCE. The wheel goes 3 to 2 and else stays, backward wins the hand, activate wins ESTOP. -/
def Obligations.SimultaneousEdges : Prop :=
  ∀ (s : State) (btn : Buttons), ∃ t, exec (.advance btn) s = .next t ∧
    (edge s.regs.prev btn 0 = true → edge s.regs.prev btn 1 = true →
      t.regs.wheel = if s.regs.wheel = 3 then 2 else s.regs.wheel) ∧
    (edge s.regs.prev btn 4 = true → edge s.regs.prev btn 5 = true → t.regs.hand = false) ∧
    (edge s.regs.prev btn 8 = true → edge s.regs.prev btn 9 = true → t.regs.estop = true)

/-- 42_state_tracker.md R107, without its clause on simultaneous edges: a forward edge alone sets the
hand latch, a backward edge alone clears it, and with neither edge it stays. -/
def Obligations.AdvanceHandLatch : Prop :=
  ∀ (s : State) (btn : Buttons), ∃ t, exec (.advance btn) s = .next t ∧
    (edge s.regs.prev btn 4 = true → edge s.regs.prev btn 5 = false → t.regs.hand = true) ∧
    (edge s.regs.prev btn 4 = false → edge s.regs.prev btn 5 = true → t.regs.hand = false) ∧
    (edge s.regs.prev btn 4 = false → edge s.regs.prev btn 5 = false → t.regs.hand = s.regs.hand)

/-- 42_state_tracker.md R110: an activate edge alone sets the ESTOP latch, a deactivate edge alone
clears it, and with neither edge it persists, whatever the levels. -/
def Obligations.AdvanceEstopLatch : Prop :=
  ∀ (s : State) (btn : Buttons), ∃ t, exec (.advance btn) s = .next t ∧
    (edge s.regs.prev btn 8 = true → edge s.regs.prev btn 9 = false → t.regs.estop = true) ∧
    (edge s.regs.prev btn 8 = false → edge s.regs.prev btn 9 = true → t.regs.estop = false) ∧
    (edge s.regs.prev btn 8 = false → edge s.regs.prev btn 9 = false → t.regs.estop = s.regs.estop)

/-- 42_state_tracker.md R113, and the assignment of R115 without its clause on the edges: `SPEED` is
the standard-speed button's level (bit 10) and `PREV` the whole vector. -/
def Obligations.AdvanceSamplesSpeedAndVector : Prop :=
  ∀ (s : State) (btn : Buttons), ∃ t, exec (.advance btn) s = .next t ∧
    t.regs.speed = btn.getLsbD 10 ∧ t.regs.prev = btn

/-- 42_state_tracker.md R101, R102, R114 (the codes, the priority and the angle's place are the spec's own
decisions D7, D14, D15): `FIRE` and `ANGLE` are functions of the current levels alone. -/
def Obligations.AdvanceFireAndAngleFollowLevels : Prop :=
  ∀ (s : State) (btn : Buttons), ∃ t, exec (.advance btn) s = .next t ∧
    t.regs.fire = (if btn.getLsbD 2 then 2 else if btn.getLsbD 3 then 1 else 0) ∧
    t.regs.angle = btn.getLsbD 11

/-- 42_state_tracker.md R103, R104 (the spec's own decision D8): `TAIMATU` becomes `TAIMATU_FN` of its old
value and the two vectors, a value at most 2, whatever that function is. -/
def Obligations.AdvanceTaimatuIsTheOpenFunction : Prop :=
  ∀ (s : State) (btn : Buttons), ∃ t, exec (.advance btn) s = .next t ∧
    t.regs.taimatu.toNat = (Config.hw.taimatuFn s.regs.taimatu s.regs.prev btn).val ∧
    t.regs.taimatu.toNat ≤ 2

/-- 42_state_tracker.md R108 (the spec's own decision D9): `MG` becomes `MG_FN` of its old value and bits
6 and 7 of the two vectors, whatever that function is; so the new `MG` depends only on the old one and
on those bits. -/
def Obligations.AdvanceMgSeesOnlyItsButtons : Prop :=
  (∀ (s : State) (btn : Buttons), ∃ t, exec (.advance btn) s = .next t ∧
    t.regs.mg = Config.hw.mgFn s.regs.mg (s.regs.prev.getLsbD 6) (s.regs.prev.getLsbD 7)
      (btn.getLsbD 6) (btn.getLsbD 7)) ∧
  (∀ (s s' : State) (btn btn' : Buttons),
    s.regs.mg = s'.regs.mg →
    (∀ k, k = 6 ∨ k = 7 → s.regs.prev.getLsbD k = s'.regs.prev.getLsbD k ∧
      btn.getLsbD k = btn'.getLsbD k) →
    ∃ t t', exec (.advance btn) s = .next t ∧ exec (.advance btn') s' = .next t' ∧
      t.regs.mg = t'.regs.mg)

/-- 42_state_tracker.md R112: ESTOP gates nothing in the tracker. Two states that differ in `ESTOP` alone
have, after ADVANCE with one vector, equal registers but for `ESTOP`. -/
def Obligations.EstopGatesNothingInTheTracker : Prop :=
  ∀ (s s' : State) (btn : Buttons) (e : Bool), s'.regs = { s.regs with estop := e } →
    ∃ t t', exec (.advance btn) s = .next t ∧ exec (.advance btn) s' = .next t' ∧
      { t.regs with estop := false } = { t'.regs with estop := false }

/-- 42_state_tracker.md R117 (the spec's derivation): a second ADVANCE with the same vector sees no edge;
`TS` counts again, and `WHEEL`, `HAND`, `ESTOP`, `FIRE`, `SPEED`, `ANGLE` and `PREV` stay. -/
def Obligations.HeldButtonsGiveNoSecondEdge : Prop :=
  ∀ (s : State) (btn : Buttons), ∃ t u,
    exec (.advance btn) s = .next t ∧ exec (.advance btn) t = .next u ∧
      u.regs = { t.regs with ts := t.regs.ts + 1, taimatu := u.regs.taimatu, mg := u.regs.mg }

/-! ### Frame assembler -/

/-- 43_frame_assembler.md R125 (its data-type code is the spec's own decision D6): the header is
`0xA0 + 4*TS`, or `0x20 + 4*TS` under ESTOP. -/
def Obligations.BuildHeaderByte : Prop :=
  ∀ (s : State) (dx dy dyaw : Rat), ∃ t, exec (.build dx dy dyaw) s = .next t ∧
    t.regs = s.regs ∧ t.host = s.host ∧
    t.out.frameOut.header.toNat = (if s.regs.estop then 0x20 else 0xA0) + 4 * s.regs.ts.toNat

/-- 30_encoding.md R63: the Firing byte, with `WHEEL`, `TAIMATU` and `HAND` at 0 under ESTOP and `FIRE`
and `ANGLE` passed through. -/
def Obligations.BuildFiringByte : Prop :=
  ∀ (s : State) (dx dy dyaw : Rat), ∃ t, exec (.build dx dy dyaw) s = .next t ∧
    t.regs = s.regs ∧
    t.out.frameOut.firing.toNat =
      64 * unlessEstop s.regs s.regs.wheel.toNat + 16 * s.regs.fire.toNat +
        4 * unlessEstop s.regs s.regs.taimatu.toNat + 2 * unlessEstop s.regs (bitNat s.regs.hand) +
        bitNat s.regs.angle

/-- 43_frame_assembler.md R127: the Opt2 byte is `SPEED` in bit 7, `MG` in bits 6-5 and 0 below, with or
without ESTOP. -/
def Obligations.BuildOpt2Byte : Prop :=
  ∀ (s : State) (dx dy dyaw : Rat), ∃ t, exec (.build dx dy dyaw) s = .next t ∧
    t.out.frameOut.opt2.toNat = 128 * bitNat s.regs.speed + 32 * s.regs.mg.toNat

/-- 43_frame_assembler.md R122, R123, with the clause of R128 for ESTOP: each velocity byte, read as a
signed number, is its duty's velocity, or 0 under ESTOP where `ESTOP_ZERO_VEL` holds. -/
def Obligations.BuildVelocityBytes : Prop :=
  ∀ (s : State) (dx dy dyaw : Rat), ∃ t, exec (.build dx dy dyaw) s = .next t ∧
    (t.out.frameOut.velX.toInt, t.out.frameOut.velY.toInt, t.out.frameOut.velYaw.toInt) =
      if s.regs.estop && Config.hw.estopZeroVel then (0, 0, 0)
      else (velocityOf dx, velocityOf dy, velocityOf dyaw)

/-- 43_frame_assembler.md R124: no duty gives the byte `0x80`, in any register state. -/
def Obligations.BuildNeverProduces80 : Prop :=
  ∀ (s : State) (dx dy dyaw : Rat), ∃ t, exec (.build dx dy dyaw) s = .next t ∧
    t.out.frameOut.velX ≠ 0x80 ∧ t.out.frameOut.velY ≠ 0x80 ∧ t.out.frameOut.velYaw ≠ 0x80

/-- 43_frame_assembler.md R120, R131: BUILD reads no `PREV`. Two states whose registers differ in `PREV`
alone give one frame for the same duties. -/
def Obligations.BuildReadsNoPreviousVector : Prop :=
  ∀ (s s' : State) (p : Buttons) (dx dy dyaw : Rat), s'.regs = { s.regs with prev := p } →
    ∃ t t', exec (.build dx dy dyaw) s = .next t ∧ exec (.build dx dy dyaw) s' = .next t' ∧
      t.out.frameOut = t'.out.frameOut

/-- 43_frame_assembler.md R132 (the spec's derivation): from a state that satisfies `INV`, every frame
BUILD produces has its own CRC, `NODEF` 0, the data-type code, Opt2 bits 4-0 zero, and `FIRE` and
`TAIMATU` at most 2. -/
def Obligations.BuiltFramesAreValid : Prop :=
  ∀ (s : State) (dx dy dyaw : Rat), State.Inv s → ∃ t, exec (.build dx dy dyaw) s = .next t ∧
    t.out.frameOut.crc = crcOf Config.hw (frameBody t.out.frameOut) ∧
    t.out.frameOut.header.toNat % 4 = 0 ∧ t.out.frameOut.header.toNat / 32 % 4 = 1 ∧
    t.out.frameOut.opt2.toNat % 32 = 0 ∧
    t.out.frameOut.firing.toNat / 16 % 4 ≤ 2 ∧ t.out.frameOut.firing.toNat / 4 % 4 ≤ 2

/-- 20_memory.md R41, R42: writing byte `k` of a frame sets it and leaves every other byte, and an index
above 6 names nothing. -/
def Obligations.FrameWriteThenRead : Prop :=
  ∀ (f : Frame) (k j : Nat) (b : Byte),
    frameRead (frameWrite f k b) j = if j = k ∧ k < 7 then some b else frameRead f j

/-! ### Wire codec -/

/-- 30_encoding.md R68, with 44_wire_codec.md R143's totality: ENCODE completes on every frame and
writes exactly 22 characters, two lowercase hex digits for byte `k` at `3k`, high nibble first, then
a comma, and CR LF at the end. -/
def Obligations.EncodeWritesTheWireFormat : Prop :=
  ∀ (s : State) (f : Frame), ∃ t, exec (.encode f) s = .next t ∧ t.regs = s.regs ∧ t.host = s.host ∧
    t.out.wireOut.length = 22 ∧
    (∀ k b, frameRead f k = some b →
      wireChar t.out.wireOut (3 * k) = lowerHexCodes[b.toNat / 16]? ∧
      wireChar t.out.wireOut (3 * k + 1) = lowerHexCodes[b.toNat % 16]?) ∧
    (∀ k, k < 6 → wireChar t.out.wireOut (3 * k + 2) = some 0x2C) ∧
    wireChar t.out.wireOut 20 = some 0x0D ∧ wireChar t.out.wireOut 21 = some 0x0A

/-- 44_wire_codec.md R144 (the spec's derivation): distinct frames give distinct messages, and the
messages of frames are exactly the strings of R68's grammar. -/
def Obligations.EncodeIsInjectiveOntoTheGrammar : Prop :=
  (∀ f f' : Frame, encodeFrame f = encodeFrame f' → f = f') ∧
  (∀ w : Wire, IsWireMessage w ↔ ∃ f : Frame, encodeFrame f = w)

/-- 44_wire_codec.md R151 (the spec's derivation): DECODE of what ENCODE wrote gives `OK` and the frame,
for every 7-byte frame. -/
def Obligations.DecodeInvertsEncode : Prop :=
  ∀ (s : State) (f : Frame), ∃ t u,
    exec (.encode f) s = .next t ∧ exec (.decode t.out.wireOut) t = .next u ∧
      u.out.status = .ok ∧ u.out.frameOut = f ∧ u.regs = s.regs ∧ u.host = s.host

/-- 30_encoding.md R69, 44_wire_codec.md R146, R147, R149, R150 (the spec's own decisions D21, D22): DECODE
completes on every message, and answers `OK` with a frame exactly when the message is seven
comma-separated tokens, each two hex digits of either case that write the frame's byte, followed by
nothing but CR and LF; no byte's value is checked. -/
def Obligations.DecodeAcceptsExactlySevenHexPairs : Prop :=
  ∀ (s : State) (w : Wire), ∃ t, exec (.decode w) s = .next t ∧ t.regs = s.regs ∧ t.host = s.host ∧
    (∀ f : Frame, (t.out.status = .ok ∧ t.out.frameOut = f) ↔
      (∃ toks, SplitsInto w toks ∧ List.Forall₂ TokenWrites toks (frameBytes f)))

/-- 44_wire_codec.md R148 (the spec's own decision D25): a message with `n` commas, `n ≠ 6`, gives
`FormatError(TOKEN_COUNT, n + 1)`, whatever its tokens are. -/
def Obligations.DecodeReportsTokenCount : Prop :=
  ∀ (s : State) (w : Wire), w.count 0x2C ≠ 6 → ∃ t, exec (.decode w) s = .next t ∧
    t.out.status = .formatError (.tokenCount (w.count 0x2C + 1)) ∧ t.regs = s.regs ∧ t.host = s.host

/-- 44_wire_codec.md R149 (the spec's own decision D22): of seven tokens, the lowest-indexed one that is
not two hex digits is reported. -/
def Obligations.DecodeReportsLowestBadToken : Prop :=
  ∀ (s : State) (w : Wire) (toks : List Wire) (k : Nat) (tok : Wire),
    SplitsInto w toks → toks.length = 7 → toks[k]? = some tok → (∀ b, ¬ TokenWrites tok b) →
    (∀ j, j < k → ∀ u, toks[j]? = some u → ∃ b, TokenWrites u b) →
    ∃ t, exec (.decode w) s = .next t ∧ t.out.status = .formatError (.badToken k) ∧
      t.regs = s.regs ∧ t.host = s.host

/-- 44_wire_codec.md R152 (the spec's derivation): an accepted message is its frame's encoding exactly
when it lies in ENCODE's image; every other accepted message decodes to a frame whose encoding is
canonical. -/
def Obligations.EncodeOfDecodeIsCanonical : Prop :=
  ∀ (s t : State) (w : Wire), exec (.decode w) s = .next t → t.out.status = .ok →
    (encodeFrame t.out.frameOut = w ↔ IsWireMessage w) ∧ IsWireMessage (encodeFrame t.out.frameOut)

/-- 44_wire_codec.md R153, 60_exceptions.md R179: SELFCHECK completes on every message with DECODE's
`STATUS`; where that is `OK` it also gives DECODE's frame, the recomputed and received CRC bytes, and
their comparison, and a mismatch leaves `STATUS` at `OK`. -/
def Obligations.SelfcheckIsDecodeAndCrc : Prop :=
  ∀ (s : State) (w : Wire), ∃ t u, exec (.selfcheck w) s = .next t ∧ exec (.decode w) s = .next u ∧
    t.regs = s.regs ∧ t.host = s.host ∧ t.out.status = u.out.status ∧
    (u.out.status = .ok →
      t.out.frameOut = u.out.frameOut ∧ t.out.dfields.raw = u.out.frameOut ∧
      t.out.dfields.crcRx = u.out.frameOut.crc ∧
      t.out.dfields.crcCalc = crcOf Config.hw (frameBody u.out.frameOut) ∧
      (t.out.crcOk = true ↔ crcOf Config.hw (frameBody u.out.frameOut) = u.out.frameOut.crc))

/-- 44_wire_codec.md R154 (some fields are added by the spec's own decision D21): on `OK`, `DFIELDS` is
every field of the frame at its bits, the velocities signed. -/
def Obligations.SelfcheckReportsEveryField : Prop :=
  ∀ (s t : State) (w : Wire), exec (.selfcheck w) s = .next t → t.out.status = .ok →
    (bitNat t.out.dfields.estopActive = 1 - t.out.frameOut.header.toNat / 128 ∧
      t.out.dfields.datatype.toNat = t.out.frameOut.header.toNat / 32 % 4 ∧
      t.out.dfields.timestamp.toNat = t.out.frameOut.header.toNat / 4 % 8 ∧
      t.out.dfields.nodef.toNat = t.out.frameOut.header.toNat % 4) ∧
    (t.out.dfields.velX = t.out.frameOut.velX.toInt ∧
      t.out.dfields.velY = t.out.frameOut.velY.toInt ∧
      t.out.dfields.velYaw = t.out.frameOut.velYaw.toInt) ∧
    (t.out.dfields.wheel.toNat = t.out.frameOut.firing.toNat / 64 ∧
      t.out.dfields.fire.toNat = t.out.frameOut.firing.toNat / 16 % 4 ∧
      t.out.dfields.taimatu.toNat = t.out.frameOut.firing.toNat / 4 % 4 ∧
      bitNat t.out.dfields.hand = t.out.frameOut.firing.toNat / 2 % 2 ∧
      bitNat t.out.dfields.angle = t.out.frameOut.firing.toNat % 2) ∧
    (bitNat t.out.dfields.speed = t.out.frameOut.opt2.toNat / 128 ∧
      t.out.dfields.mg.toNat = t.out.frameOut.opt2.toNat / 32 % 4 ∧
      t.out.dfields.opt2Zero.toNat = t.out.frameOut.opt2.toNat % 32)

/-- 40_bitfield_codec.md R75, 41_crc_engine.md R85, 44_wire_codec.md R140: the codec, the CRC engine and
the wire codec read their operands only: where one of them completes from one state, it completes
from every other and answers the same on the ports it writes. -/
def Obligations.PureCommandsReadOnlyOperands : Prop :=
  ∀ (s s' t : State),
    (∀ fields, exec (.pack fields) s = .next t →
      ∃ t', exec (.pack fields) s' = .next t' ∧ t'.out.rbyte = t.out.rbyte) ∧
    (∀ b off width, exec (.unpack b off width) s = .next t →
      ∃ t', exec (.unpack b off width) s' = .next t' ∧ t'.out.rbyte = t.out.rbyte) ∧
    (∀ m, exec (.crc m) s = .next t →
      ∃ t', exec (.crc m) s' = .next t' ∧ t'.out.rbyte = t.out.rbyte) ∧
    (∀ f, exec (.encode f) s = .next t →
      ∃ t', exec (.encode f) s' = .next t' ∧ t'.out.wireOut = t.out.wireOut) ∧
    (∀ w, exec (.decode w) s = .next t →
      ∃ t', exec (.decode w) s' = .next t' ∧ t'.out.status = t.out.status ∧
        (t.out.status = .ok → t'.out.frameOut = t.out.frameOut)) ∧
    (∀ w, exec (.selfcheck w) s = .next t →
      ∃ t', exec (.selfcheck w) s' = .next t' ∧ t'.out.status = t.out.status ∧
        (t.out.status = .ok → t'.out.frameOut = t.out.frameOut ∧ t'.out.crcOk = t.out.crcOk ∧
          t'.out.dfields = t.out.dfields))

/-! ### The tick -/

/-- 45_tick.md R167 (the spec's derivation): TICK has the effect of ADVANCE, BUILD, and ENCODE of the
built frame, issued on the command port one after the other, on every register, `FRAME_OUT` and
`WIRE_OUT`. -/
def Obligations.TickIsAdvanceBuildEncode : Prop :=
  ∀ (s : State) (btn : Buttons) (dx dy dyaw : Rat), ∃ a b e t,
    step { s with host := [encode (.advance btn)] } = .next a ∧
    step { a with host := [encode (.build dx dy dyaw)] } = .next b ∧
    step { b with host := [encode (.encode b.out.frameOut)] } = .next e ∧
    step { s with host := [encode (.tick btn dx dy dyaw)] } = .next t ∧
    t.regs = e.regs ∧ t.out.frameOut = b.out.frameOut ∧ t.out.wireOut = e.out.wireOut

/-- 45_tick.md R168 with 43_frame_assembler.md R126 (which frame shows the edge is the spec's own
decision D24): an activate edge in a TICK shows in that TICK's own frame, whatever the registers and
the other buttons: header bit 7, the wheel bits, the taimatu bits and the hand bit are 0. -/
def Obligations.EstopEdgeShowsInItsOwnFrame : Prop :=
  ∀ (s : State) (btn : Buttons) (dx dy dyaw : Rat), edge s.regs.prev btn 8 = true →
    ∃ t, exec (.tick btn dx dy dyaw) s = .next t ∧ t.regs.estop = true ∧
      t.out.frameOut.header.toNat / 128 = 0 ∧ t.out.frameOut.firing.toNat / 64 = 0 ∧
      t.out.frameOut.firing.toNat / 4 % 4 = 0 ∧ t.out.frameOut.firing.toNat / 2 % 2 = 0

/-- 44_wire_codec.md R157, 41_crc_engine.md R93 (the spec's derivations): SELFCHECK of a TICK's own
message always answers `OK` with `CRC_OK = 1`, and `DFIELDS` repeats the fields BUILD packed. -/
def Obligations.DryRunAlwaysPasses : Prop :=
  ∀ (s : State) (btn : Buttons) (dx dy dyaw : Rat), ∃ t u,
    exec (.tick btn dx dy dyaw) s = .next t ∧ t.host = s.host ∧
    exec (.selfcheck t.out.wireOut) t = .next u ∧
      u.regs = t.regs ∧ u.out.status = .ok ∧ u.out.crcOk = true ∧
      u.out.frameOut = t.out.frameOut ∧ u.out.dfields.raw = t.out.frameOut ∧
      u.out.dfields.estopActive = t.regs.estop ∧ u.out.dfields.timestamp = t.regs.ts ∧
      u.out.dfields.fire = t.regs.fire ∧ u.out.dfields.angle = t.regs.angle ∧
      u.out.dfields.speed = t.regs.speed ∧ u.out.dfields.mg = t.regs.mg ∧
      u.out.dfields.wheel = (if t.regs.estop then 0 else t.regs.wheel) ∧
      u.out.dfields.taimatu = (if t.regs.estop then 0 else t.regs.taimatu) ∧
      u.out.dfields.hand = (if t.regs.estop then false else t.regs.hand) ∧
      u.out.dfields.velX = t.out.frameOut.velX.toInt ∧
      u.out.dfields.velY = t.out.frameOut.velY.toInt ∧
      u.out.dfields.velYaw = t.out.frameOut.velYaw.toInt
end

