-- ==== Sys2Proof/Laws/Codec.lean ====
section
/-!
SUPPORT. The bit-field codec, bit by bit.
-/
namespace Sys2Proof.Machine

/-- A field's mask has exactly the bits of its range. -/
theorem fieldMask_testBit (f : Field) (k : Nat) :
    (fieldMask f).testBit k = f.hasBit k := by
  have h : (1 <<< f.width) - 1 = 2 ^ f.width - 1 := by rw [Nat.one_shiftLeft]
  rw [fieldMask, Nat.testBit_shiftLeft, h, Nat.testBit_two_pow_sub_one, Field.hasBit]
  by_cases hk : f.off ≤ k
  · simp [hk]; omega
  · simp [hk]

/-- A value that fits its width, shifted to its offset, has no bit outside the field's range. -/
theorem shifted_testBit (f : Field) (hv : f.value < 2 ^ f.width) (k : Nat) :
    (f.value <<< f.off).testBit k = (f.hasBit k && f.value.testBit (k - f.off)) := by
  rw [Nat.testBit_shiftLeft, Field.hasBit]
  by_cases hk : f.off ≤ k
  · by_cases hw : k < f.off + f.width
    · simp [hk, hw]
    · have : f.value.testBit (k - f.off) = false :=
        Nat.testBit_lt_two_pow (lt_of_lt_of_le hv (Nat.pow_le_pow_right (by norm_num) (by omega)))
      simp [hk, hw, this]
  · simp [hk]

/-- An OR over a list has the bits of any of its members, and of the value it starts from. -/
theorem foldl_or_testBit (g : Field → Nat) (fields : List Field) (a k : Nat) :
    (fields.foldl (fun m f => m ||| g f) a).testBit k =
      (a.testBit k || fields.any fun f => (g f).testBit k) := by
  induction fields generalizing a with
  | nil => simp
  | cons f fs ih => simp [ih, Nat.testBit_or, Bool.or_assoc]

/-- The union of the masks has the bits that some field has. -/
theorem maskUnion_testBit (fields : List Field) (k : Nat) :
    (maskUnion fields).testBit k = fields.any (·.hasBit k) := by
  rw [maskUnion, foldl_or_testBit]
  simp [fieldMask_testBit]

/-- The packed byte has the bits of the fields' shifted values. -/
theorem packByte_getLsbD (fields : List Field) (k : Nat) :
    (packByte fields).getLsbD k =
      (decide (k < 8) && fields.any fun f => (f.value <<< f.off).testBit k) := by
  rw [packByte, BitVec.getLsbD_ofNat, foldl_or_testBit]
  simp

/-- UNPACK's value as a number. -/
theorem unpackByte_toNat (b : Byte) (off width : Nat) (h : off + width ≤ 8) :
    (unpackByte b off width).toNat = b.toNat / 2 ^ off % 2 ^ width := by
  have hp : 2 ^ width ≤ 2 ^ 8 := Nat.pow_le_pow_right (by norm_num) (by omega)
  have hlt : (1 <<< width) - 1 < 2 ^ 8 := by rw [Nat.one_shiftLeft]; omega
  rw [unpackByte, BitVec.toNat_and, BitVec.toNat_ushiftRight, BitVec.toNat_ofNat,
    Nat.mod_eq_of_lt hlt, Nat.one_shiftLeft, Nat.and_two_pow_sub_one_eq_mod, Nat.shiftRight_eq_div_pow]

/-- UNPACK's check passes exactly on a range inside the byte. -/
theorem unpackRefusal_eq_none (off width : Nat) :
    unpackRefusal off width = none ↔ 1 ≤ width ∧ off + width ≤ 8 := by
  simp [unpackRefusal]

/-- UNPACK's check gives no reason but its own. -/
theorem unpackRefusal_eq_some {off width : Nat} {r : Refusal} (h : unpackRefusal off width = some r) :
    r = .unpackRange := by
  unfold unpackRefusal at h
  split at h
  · cases h
  · simpa [eq_comm] using h

end Sys2Proof.Machine
end

