-- ==== Sys2Proof/Laws/Crc.lean ====
section
/-!
SUPPORT. The CRC engine: one shift is linear over XOR, and the six bytes written out.
-/
namespace Sys2Proof.Machine

/-- One shift iteration by its bits: a left shift, and the polynomial where the MSB was 1. -/
theorem crcShift_xor (poly a b : Byte) :
    crcShift poly (a ^^^ b) = crcShift poly a ^^^ crcShift poly b := by
  unfold crcShift
  rw [BitVec.msb_xor, BitVec.shiftLeft_xor_distrib]
  generalize a <<< 1 = x
  generalize b <<< 1 = y
  cases a.msb <;> cases b.msb <;> simp only [bne_self_eq_false, Bool.xor_false, Bool.xor_true,
    Bool.not_false, Bool.false_eq_true, if_true, if_false]
  · exact BitVec.xor_assoc x y poly
  · rw [BitVec.xor_assoc, BitVec.xor_comm y poly, ← BitVec.xor_assoc]
  · rw [BitVec.xor_assoc, BitVec.xor_comm poly, BitVec.xor_assoc, BitVec.xor_self,
      BitVec.xor_zero]

/-- Any number of shift iterations is linear over XOR. -/
theorem crcShifts_xor (poly : Byte) (n : Nat) (a b : Byte) :
    crcShifts poly n (a ^^^ b) = crcShifts poly n a ^^^ crcShifts poly n b := by
  induction n generalizing a b with
  | zero => rfl
  | succ n ih => simp [crcShifts, crcShift_xor, ih]

/-- The checksum of six bytes, written out. -/
theorem crcOf_eq (cfg : Config) (m : CrcBlock) :
    crcOf cfg m =
      crcByte cfg (crcByte cfg (crcByte cfg (crcByte cfg (crcByte cfg
        (crcByte cfg cfg.crcInit m.b0) m.b1) m.b2) m.b3) m.b4) m.b5 ^^^ cfg.crcXorOut := rfl

/-- `CRC_OK` says that the recomputed CRC is the received one. -/
theorem crcOkFlag_iff (cfg : Config) (f : Frame) :
    crcOkFlag cfg f = true ↔ crcOf cfg (frameBody f) = f.crc := by
  simp [crcOkFlag]

end Sys2Proof.Machine
end

