-- ==== Sys2Proof/Laws/Duty.lean ====
section
/-!
SUPPORT. The duty conversion and the two's-complement byte.
-/
namespace Sys2Proof.Machine

/-- A duty's integer lies in -127..127 (43_frame_assembler.md R124). -/
theorem dutyToInt_range (d : Rat) : -127 ≤ dutyToInt d ∧ dutyToInt d ≤ 127 := by
  simp only [dutyToInt, Config.velMin, Config.velMax]
  omega

/-- A byte written by `u8` reads back as the integer it was given. -/
theorem u8_toInt (i : Int) (hlo : -128 ≤ i) (hhi : i ≤ 127) : (u8 i).toInt = i := by
  rw [u8, BitVec.toInt_ofInt]
  exact Int.bmod_eq_of_le (by norm_num; omega) (by norm_num; omega)

/-- `s8` is the two's-complement reading of a byte. -/
theorem s8_eq_toInt (b : Byte) : s8 b = b.toInt := by
  have := b.isLt
  rw [s8, BitVec.toInt_eq_toNat_cond]
  split <;> split <;> omega

end Sys2Proof.Machine
end

