-- ==== Sys2Proof/Laws/State.lean ====
section
/-!
SUPPORT. One lemma per field per update of the state, so that no later proof unfolds a record update.
-/
namespace Sys2Proof.Machine

variable (s : State) (regs : Regs) (out : Results) (rest : List Command) (c : Command)
  (e : FormatError)

@[simp] theorem State.commit_regs : (s.commit regs out).regs = regs := rfl
@[simp] theorem State.commit_out : (s.commit regs out).out = out := rfl
@[simp] theorem State.commit_host : (s.commit regs out).host = s.host := rfl
@[simp] theorem State.commit_fresh : (s.commit regs out).fresh = s.fresh + 1 := rfl

@[simp] theorem State.failFormat_regs : (s.failFormat e).regs = s.regs := rfl
@[simp] theorem State.failFormat_status : (s.failFormat e).out.status = .formatError e := rfl
@[simp] theorem State.failFormat_wireOut :
    (s.failFormat e).out.wireOut = s.undefinedOut.wireOut := rfl
@[simp] theorem State.failFormat_host : (s.failFormat e).host = s.host := rfl
@[simp] theorem State.failFormat_fresh : (s.failFormat e).fresh = s.fresh + 1 := rfl

@[simp] theorem State.taken_regs : (s.taken rest).regs = s.regs := rfl
@[simp] theorem State.taken_out : (s.taken rest).out = s.out := rfl
@[simp] theorem State.taken_host : (s.taken rest).host = rest := rfl
@[simp] theorem State.taken_fresh : (s.taken rest).fresh = s.fresh := rfl

@[simp] theorem State.issue_regs : (s.issue c).regs = s.regs := rfl
@[simp] theorem State.issue_out : (s.issue c).out = s.out := rfl
@[simp] theorem State.issue_host : (s.issue c).host = c :: s.host := rfl
@[simp] theorem State.issue_fresh : (s.issue c).fresh = s.fresh := rfl

/-- An undefined `WIRE_OUT` still has the port's 22 characters. -/
@[simp] theorem State.undefinedOut_wireOut_length :
    s.undefinedOut.wireOut.length = Config.wireLen := by
  simp [State.undefinedOut, freeResults]

/-! The configuration of this hardware, parameter by parameter (00_scope.md R7). -/

/-- `NBTN`. Not a simp lemma: the parameter stands in the types of button vectors, and a rewrite there
would give one vector two widths. -/
theorem hw_nbtn : Config.hw.nbtn = 12 := rfl

/-- A button vector is a 12-bit number. -/
theorem buttons_lt (b : Buttons) : b.toNat < 4096 := b.isLt

@[simp] theorem hw_crcPoly : Config.hw.crcPoly = 0xEB := rfl
@[simp] theorem hw_crcIters : Config.hw.crcIters = 7 := rfl
@[simp] theorem hw_crcInit : Config.hw.crcInit = 0x00 := rfl
@[simp] theorem hw_crcXorOut : Config.hw.crcXorOut = 0x00 := rfl
@[simp] theorem hw_datatypeCode : Config.hw.datatypeCode = 0b01 := rfl
@[simp] theorem hw_fireIdle : Config.hw.fireIdle = 0 := rfl
@[simp] theorem hw_fireSingle : Config.hw.fireSingle = 1 := rfl
@[simp] theorem hw_fireRapid : Config.hw.fireRapid = 2 := rfl

/-! ADVANCE, register by register. -/

variable (cfg : Config) (r : RegsOf cfg.nbtn) (b : BitVec cfg.nbtn)

@[simp] theorem advanceRegs_ts :
    (advanceRegs cfg r b).ts = BitVec.ofNat 3 ((r.ts.toNat + 1) % Config.tsMod) := rfl
@[simp] theorem advanceRegs_wheel : (advanceRegs cfg r b).wheel = nextWheel r.wheel r.prev b := rfl
@[simp] theorem advanceRegs_fire : (advanceRegs cfg r b).fire = nextFire cfg b := rfl
@[simp] theorem advanceRegs_taimatu :
    (advanceRegs cfg r b).taimatu = nextTaimatu cfg r.taimatu r.prev b := rfl
@[simp] theorem advanceRegs_hand : (advanceRegs cfg r b).hand = nextHand r.hand r.prev b := rfl
@[simp] theorem advanceRegs_mg : (advanceRegs cfg r b).mg = nextMg cfg r.mg r.prev b := rfl
@[simp] theorem advanceRegs_estop : (advanceRegs cfg r b).estop = nextEstop r.estop r.prev b := rfl
@[simp] theorem advanceRegs_speed : (advanceRegs cfg r b).speed = held b .stdSpeed := rfl
@[simp] theorem advanceRegs_angle : (advanceRegs cfg r b).angle = held b .angle := rfl
@[simp] theorem advanceRegs_prev : (advanceRegs cfg r b).prev = b := rfl

/-! RESET, register by register. -/

@[simp] theorem resetRegs_hw : resetRegs Config.hw = Regs.reset := rfl

end Sys2Proof.Machine
end

