-- ==== Sys2Proof/Laws/Ops.lean ====
section
/-!
SUPPORT. What each shared operation and each step can do, said once: later proofs cite these and do
not unfold the operation.
-/
namespace Sys2Proof.Machine

/-- A checked command answers a next state only where no reason to refuse it was found. -/
theorem unlessRefused_next {r : Option Refusal} {t u : State} (h : unlessRefused r t = .next u) :
    r = none ∧ u = t := by
  cases r with
  | none => simpa [unlessRefused, eq_comm] using h
  | some reason => cases h

/-- A checked command is refused only for the reason found. -/
theorem unlessRefused_refused {r : Option Refusal} {t : State} {reason : Refusal}
    (h : unlessRefused r t = .refused reason) : r = some reason := by
  cases r with
  | none => cases h
  | some q => simpa [unlessRefused] using h

@[simp] theorem unlessRefused_none (t : State) : unlessRefused none t = .next t := rfl

@[simp] theorem unlessRefused_some (r : Refusal) (t : State) :
    unlessRefused (some r) t = .refused r := rfl

/-! Fetching. -/

theorem fetch_idle {s : State} (h : s.host = []) : fetch s = .idle := by simp [fetch, h]

theorem fetch_command {s : State} {c : Command} {rest : List Command} {i : Instr}
    (h : s.host = c :: rest) (hd : decode c = .ok i) : fetch s = .command i rest := by
  simp [fetch, h, hd]

theorem fetch_rejected {s : State} {c : Command} {rest : List Command} {r : Reject}
    (h : s.host = c :: rest) (hd : decode c = .error r) :
    fetch s = .rejected (refusalOf r) := by
  simp [fetch, h, hd]

/-- Everything a step that answers a next state can be: an idle wait, or the meaning of the decoded
command on the state with that command taken. -/
theorem step_next_cases {s t : State} (h : step s = .next t) :
    (s.host = [] ∧ t = s) ∨
      ∃ c rest i, s.host = c :: rest ∧ decode c = .ok i ∧ exec i (s.taken rest) = .next t := by
  cases hs : s.host with
  | nil =>
    left
    simp only [step, fetch_idle hs] at h
    cases h
    exact ⟨rfl, rfl⟩
  | cons c rest =>
    right
    cases hd : decode c with
    | error r => simp [step, fetch_rejected hs hd] at h
    | ok i => exact ⟨c, rest, i, rfl, hd, by simpa [step, fetch_command hs hd] using h⟩

/-! The meanings, each as its one outcome; PACK and UNPACK with the check before it. -/

variable (s : State)

theorem exec_reset : exec .reset s = .next (s.commit (resetRegs Config.hw) s.undefinedOut) := rfl

theorem exec_pack (fields : List Field) :
    exec (.pack fields) s =
      unlessRefused (packRefusal fields)
        (s.commit s.regs { s.undefinedOut with rbyte := packByte fields }) := rfl

theorem exec_unpack (b : Byte) (off width : Nat) :
    exec (.unpack b off width) s =
      unlessRefused (unpackRefusal off width)
        (s.commit s.regs { s.undefinedOut with rbyte := unpackByte b off width }) := rfl

theorem exec_crc (m : CrcBlock) :
    exec (.crc m) s =
      .next (s.commit s.regs { s.undefinedOut with rbyte := crcOf Config.hw m }) := rfl

theorem exec_advance (b : Buttons) :
    exec (.advance b) s =
      .next (s.commit (advanceRegs Config.hw s.regs b) s.undefinedOut) := rfl

theorem exec_build (dx dy dyaw : Rat) :
    exec (.build dx dy dyaw) s =
      .next (s.commit s.regs
        { s.undefinedOut with frameOut := buildFrame Config.hw s.regs dx dy dyaw }) := rfl

theorem exec_encode (f : Frame) :
    exec (.encode f) s =
      .next (s.commit s.regs { s.undefinedOut with wireOut := encodeFrame f }) := rfl

theorem exec_decode_ok {w : Wire} {f : Frame} (h : decodeWire w = .ok f) :
    exec (.decode w) s =
      .next (s.commit s.regs { s.undefinedOut with status := .ok, frameOut := f }) := by
  simp [exec, execDecode, h]

theorem exec_decode_error {w : Wire} {e : FormatError} (h : decodeWire w = .error e) :
    exec (.decode w) s = .next (s.failFormat e) := by
  simp [exec, execDecode, h]

theorem exec_selfcheck_ok {w : Wire} {f : Frame} (h : decodeWire w = .ok f) :
    exec (.selfcheck w) s =
      .next (s.commit s.regs
        { s.undefinedOut with
          status := .ok
          frameOut := f
          crcOk := crcOkFlag Config.hw f
          dfields := unpackAll f (crcOf Config.hw (frameBody f)) }) := by
  simp [exec, execSelfcheck, h]

theorem exec_selfcheck_error {w : Wire} {e : FormatError} (h : decodeWire w = .error e) :
    exec (.selfcheck w) s = .next (s.failFormat e) := by
  simp [exec, execSelfcheck, h]

theorem exec_tick (b : Buttons) (dx dy dyaw : Rat) :
    exec (.tick b dx dy dyaw) s =
      .next (s.commit (advanceRegs Config.hw s.regs b)
        { s.undefinedOut with
          frameOut := buildFrame Config.hw (advanceRegs Config.hw s.regs b) dx dy dyaw
          wireOut :=
            encodeFrame (buildFrame Config.hw (advanceRegs Config.hw s.regs b) dx dy dyaw) }) := rfl

/-- A meaning never touches the commands still to come, and numbers itself. -/
theorem exec_next_host {i : Instr} {s t : State} (h : exec i s = .next t) :
    t.host = s.host ∧ t.fresh = s.fresh + 1 := by
  cases i with
  | pack fields => rw [exec_pack] at h; obtain ⟨-, rfl⟩ := unlessRefused_next h; simp
  | unpack b off width => rw [exec_unpack] at h; obtain ⟨-, rfl⟩ := unlessRefused_next h; simp
  | decode w =>
    cases hd : decodeWire w with
    | error e => rw [exec_decode_error s hd] at h; cases h; simp
    | ok f => rw [exec_decode_ok s hd] at h; cases h; simp
  | selfcheck w =>
    cases hd : decodeWire w with
    | error e => rw [exec_selfcheck_error s hd] at h; cases h; simp
    | ok f => rw [exec_selfcheck_ok s hd] at h; cases h; simp
  | _ => cases h; simp

/-! Runs. -/

theorem run_zero (s : State) : Sys2Proof.core.run 0 s = .next s := rfl

theorem run_succ {k : Nat} {s t : State} (h : step s = .next t) :
    Sys2Proof.core.run (k + 1) s = Sys2Proof.core.run k t := by
  have h' : Sys2Proof.core.step s = .next t := h
  simp [Host.Core.run, h']

end Sys2Proof.Machine
end

