-- ==== Sys2Proof/Laws/PerInstr.lean ====
section
/-!
SUPPORT. Facts about every command as syntax, one lemma per constructor: the ports an encoded command
presents hold values of their types (30_encoding.md R70), and its opcode is no reserved one (R58).
-/
namespace Sys2Proof.Laws

/-- A sequence of port values that are bytes. -/
def areBytes (vs : List Nat) : Prop := ∀ v ∈ vs, v < 2 ^ 8

/-- The bytes of a message, as port values, are bytes. -/
theorem areBytes_map (w : List Byte) : areBytes (w.map BitVec.toNat) := by
  intro v hv
  obtain ⟨b, -, rfl⟩ := List.mem_map.mp hv
  exact b.isLt

namespace EncodedPortsTyped

/-- Every bounded operand port of the encoded command holds a value of its type, and its opcode is one
of the ten. -/
def Statement (i : Instr) : Prop :=
  (encode i).op.toNat < 10 ∧ (encode i).ports.btn < 2 ^ Config.hw.nbtn ∧ (encode i).ports.ubyte < 2 ^ 8 ∧
    (encode i).ports.crcIn.length = 6 ∧ areBytes (encode i).ports.crcIn ∧
    (encode i).ports.frameIn.length = 7 ∧ areBytes (encode i).ports.frameIn ∧
    areBytes (encode i).ports.wireIn

theorem reset : Statement .reset := by
  simp [Statement, encode, opcodeOf, portsOf, Ports.idle, areBytes]

theorem pack (fields : List Field) : Statement (.pack fields) := by
  simp [Statement, encode, opcodeOf, portsOf, Ports.idle, areBytes]

theorem unpack (b : Byte) (off width : Nat) : Statement (.unpack b off width) := by
  have := b.isLt
  simp [Statement, encode, opcodeOf, portsOf, Ports.idle, areBytes]; omega

theorem crc (m : CrcBlock) : Statement (.crc m) := by
  have := areBytes_map [m.b0, m.b1, m.b2, m.b3, m.b4, m.b5]
  simp_all [Statement, encode, opcodeOf, portsOf, Ports.idle, areBytes]

theorem advance (btn : Buttons) : Statement (.advance btn) := by
  have := btn.isLt
  simp [Statement, encode, opcodeOf, portsOf, Ports.idle, areBytes]; omega

theorem build (dx dy dyaw : Rat) : Statement (.build dx dy dyaw) := by
  simp [Statement, encode, opcodeOf, portsOf, Ports.idle, areBytes]

theorem encode (f : Frame) : Statement (.encode f) := by
  have := areBytes_map [f.header, f.velX, f.velY, f.velYaw, f.firing, f.opt2, f.crc]
  simp_all [Statement, Sys2Proof.encode, opcodeOf, portsOf, Ports.idle, areBytes]

theorem decode (w : Wire) : Statement (.decode w) := by
  have := areBytes_map w
  simp_all [Statement, Sys2Proof.encode, opcodeOf, portsOf, Ports.idle, areBytes]

theorem selfcheck (w : Wire) : Statement (.selfcheck w) := by
  have := areBytes_map w
  simp_all [Statement, Sys2Proof.encode, opcodeOf, portsOf, Ports.idle, areBytes]

theorem tick (btn : Buttons) (dx dy dyaw : Rat) : Statement (.tick btn dx dy dyaw) := by
  have := btn.isLt
  simp [Statement, Sys2Proof.encode, opcodeOf, portsOf, Ports.idle, areBytes]; omega

end EncodedPortsTyped

end Sys2Proof.Laws
end

