-- ==== Sys2Proof/Laws/Wire.lean ====
section
/-!
SUPPORT. The wire codec: hex digits, the encoder's length, and the two halves of `split`.
-/
namespace Sys2Proof.Machine

/-- Reading back a written hex digit. -/
theorem hexValue_hexLower (n : Nat) (h : n < 16) : hexValue (hexLower n) = some n := by
  have : ∀ n : Fin 16, hexValue (hexLower n.val) = some n.val := by decide
  exact this ⟨n, h⟩

/-- A written hex digit is no comma. -/
theorem hexLower_ne_comma (n : Nat) (h : n < 16) : hexLower n ≠ comma := by
  have : ∀ n : Fin 16, hexLower n.val ≠ comma := by decide
  exact this ⟨n, h⟩

/-- A written hex digit is no line end. -/
theorem hexLower_not_terminator (n : Nat) (h : n < 16) : isTerminator (hexLower n) = false := by
  have : ∀ n : Fin 16, isTerminator (hexLower n.val) = false := by decide
  exact this ⟨n, h⟩

/-- Reading back a written byte. -/
theorem tokenByte_hexPair (b : Byte) : tokenByte (hexPair b) = some b := by
  have hb := b.isLt
  have h1 : b.toNat / 16 < 16 := by omega
  have h2 : b.toNat % 16 < 16 := by omega
  simp only [hexPair, tokenByte, hexValue_hexLower _ h1, hexValue_hexLower _ h2]
  congr 1
  apply BitVec.eq_of_toNat_eq
  rw [BitVec.toNat_ofNat]
  omega

/-- The encoder always writes 22 characters (44_wire_codec.md R143). -/
@[simp] theorem encodeFrame_length (f : Frame) : (encodeFrame f).length = Config.wireLen := by
  simp [encodeFrame, frameBytes, joinCommas, hexPair]

/-- `split` gives at least one token. -/
theorem splitCommas_ne_nil (w : Wire) : splitCommas w ≠ [] := by
  cases w with
  | nil => simp [splitCommas]
  | cons ch rest =>
    unfold splitCommas
    split
    · simp
    · split <;> simp

/-- A token without a comma, followed by a comma, is split off. -/
theorem splitCommas_append_comma (t rest : Wire) (h : comma ∉ t) :
    splitCommas (t ++ comma :: rest) = t :: splitCommas rest := by
  induction t with
  | nil => simp [splitCommas]
  | cons ch t ih =>
    have hne : ch ≠ comma := fun e => h (by simp [e])
    have ht : comma ∉ t := fun e => h (by simp [e])
    simp [splitCommas, hne, ih ht]

/-- A message without a comma is one token. -/
theorem splitCommas_of_not_mem (t : Wire) (h : comma ∉ t) : splitCommas t = [t] := by
  induction t with
  | nil => rfl
  | cons ch t ih =>
    have hne : ch ≠ comma := fun e => h (by simp [e])
    have ht : comma ∉ t := fun e => h (by simp [e])
    simp [splitCommas, hne, ih ht]

/-- Trailing line ends are stripped, and nothing else is. -/
theorem stripTerminators_append (w term : Wire) (hterm : ∀ ch ∈ term, isTerminator ch = true)
    (hw : ∀ ch ∈ w.getLast?, isTerminator ch = false) : stripTerminators (w ++ term) = w := by
  have hdrop : ∀ (l l' : Wire), (∀ ch ∈ l, isTerminator ch = true) →
      (l ++ l').dropWhile isTerminator = l'.dropWhile isTerminator := by
    intro l l' hl
    induction l with
    | nil => rfl
    | cons ch l ih => simp_all
  unfold stripTerminators
  rw [List.reverse_append, hdrop _ _ (by simpa using hterm)]
  cases hr : w.reverse with
  | nil => simpa using hr.symm
  | cons ch l =>
    have hlast : w.getLast? = some ch := by
      rw [← List.head?_reverse, hr]; rfl
    have hch : isTerminator ch = false := hw ch (by simp [hlast])
    have hw' : w = (ch :: l).reverse := by rw [← hr, List.reverse_reverse]
    rw [hw']
    simp [hch]

end Sys2Proof.Machine
end

