-- ==== Sys2Proof/Tests/Slice0.lean ====
section
/-!
SUPPORT. The model's own tests. Expected results come from the spec: an id such as V-PACK-1 names the
row of 95_test_vectors.md. Vectors that depend on a parameter the spec leaves OPEN are tested on the
function that takes the configuration, at the spec's reference configuration. Then, for every
statement with hypotheses, a theorem that names a state and operands that meet them.
-/
namespace Sys2Proof.Tests

open Sys2Proof Sys2Proof.Machine Sys2Proof.Claims

/-! ### Helpers -/

/-- The reset state with these registers. -/
def stateWith (r : Regs) : State := { State.reset with regs := r }

/-- The reset state with these commands to come. -/
def hostWith (cs : List Command) : State := { State.reset with host := cs }

/-- The outcome is a next state that passes the check. -/
def answers (o : Host.Outcome State Fault Refusal) (check : State → Bool) : Bool :=
  match o with
  | .next t => check t
  | _ => false

/-- The outcome is that refusal. -/
def refusedBy (o : Host.Outcome State Fault Refusal) (r : Refusal) : Bool :=
  match o with
  | .refused q => decide (q = r)
  | _ => false

/-! ### Well-formedness: a term that each check refuses -/

theorem test_wf_width_zero : packWellFormed [⟨0, 0, 0⟩, ⟨0, 8, 0⟩] = false := by decide
theorem test_wf_past_bit_7 : packWellFormed [⟨6, 3, 0⟩, ⟨0, 6, 0⟩] = false := by decide
theorem test_wf_overlap : packWellFormed [⟨0, 8, 0⟩, ⟨7, 1, 1⟩] = false := by decide
theorem test_wf_cover : packWellFormed [⟨7, 1, 1⟩, ⟨5, 2, 1⟩, ⟨2, 3, 1⟩] = false := by decide
theorem test_wf_value : packWellFormed [⟨0, 4, 16⟩, ⟨4, 4, 0⟩] = false := by decide
theorem test_wf_unpack : (Instr.unpack 0xA4 7 2).WellFormed = false := by decide
theorem test_wf_good : packWellFormed [⟨7, 1, 1⟩, ⟨5, 2, 1⟩, ⟨2, 3, 1⟩, ⟨0, 2, 0⟩] = true := by decide

/-! ### Decoding: opcodes written out from the table of 30_encoding.md R57 -/

theorem test_decode_reset : decode ⟨0b0000, Ports.idle⟩ = .ok .reset := by rfl
theorem test_decode_pack :
    decode ⟨0b0001, { Ports.idle with fields := [⟨4, 4, 5⟩, ⟨0, 4, 10⟩] }⟩ =
      .ok (.pack [⟨4, 4, 5⟩, ⟨0, 4, 10⟩]) := by rfl
theorem test_decode_unpack :
    decode ⟨0b0010, { Ports.idle with ubyte := 0xA4, uoff := 2, uwidth := 3 }⟩ =
      .ok (.unpack 0xA4 2 3) := by rfl
theorem test_decode_crc :
    decode ⟨0b0011, { Ports.idle with crcIn := [1, 2, 3, 4, 5, 6] }⟩ =
      .ok (.crc ⟨1, 2, 3, 4, 5, 6⟩) := by rfl
theorem test_decode_advance :
    decode ⟨0b0100, { Ports.idle with btn := 0xFFF }⟩ = .ok (.advance 0xFFF) := by rfl
theorem test_decode_build :
    decode ⟨0b0101, { Ports.idle with dutyX := 1, dutyY := -1, dutyYaw := 2 }⟩ =
      .ok (.build 1 (-1) 2) := by rfl
theorem test_decode_encode :
    decode ⟨0b0110, { Ports.idle with frameIn := [0xA4, 1, 2, 3, 4, 5, 0x87] }⟩ =
      .ok (.encode ⟨0xA4, 1, 2, 3, 4, 5, 0x87⟩) := by rfl
theorem test_decode_decode :
    decode ⟨0b0111, { Ports.idle with wireIn := [0x61, 0x34] }⟩ = .ok (.decode [0x61, 0x34]) := by
  rfl
theorem test_decode_selfcheck :
    decode ⟨0b1000, { Ports.idle with wireIn := [0x0D, 0x0A] }⟩ = .ok (.selfcheck [0x0D, 0x0A]) := by
  rfl
theorem test_decode_tick :
    decode ⟨0b1001, { Ports.idle with btn := 0x111, dutyX := 1, dutyY := -1, dutyYaw := 2 }⟩ =
      .ok (.tick 0x111 1 (-1) 2) := by rfl

/-- V-ILL-1, the two ends of the reserved range. -/
theorem test_decode_reserved :
    decode ⟨0b1010, Ports.idle⟩ = .error (.illegalOp 0xA) ∧
      decode ⟨0b1111, { Ports.idle with btn := 4096 }⟩ = .error (.illegalOp 0xF) := by
  exact ⟨rfl, rfl⟩

/-- The example of 60_exceptions.md R178: a `BTN` wider than 12 bits, a byte above 255. -/
theorem test_decode_operand_type :
    decode ⟨0b0100, { Ports.idle with btn := 4096 }⟩ = .error (.operandType .btn) ∧
      decode ⟨0b0011, { Ports.idle with crcIn := [0, 0, 256, 0, 0, 0] }⟩ =
        .error (.operandType .crcIn) ∧
      decode ⟨0b0110, { Ports.idle with frameIn := [0, 0, 0, 0, 0, 0] }⟩ =
        .error (.operandType .frameIn) := by
  exact ⟨rfl, rfl, rfl⟩

/-! ### Vectors, at most two theorems an instruction -/

/-- V-RST-1 and V-RST-2. -/
theorem test_reset :
    answers (exec .reset (stateWith { Regs.reset with ts := 6, estop := true, prev := 0x905 }))
      (fun t => decide (t.regs = Regs.reset)) = true := by decide

/-- V-PACK-1, V-PACK-5. -/
theorem test_pack :
    answers (exec (.pack [⟨7, 1, 1⟩, ⟨5, 2, 1⟩, ⟨2, 3, 1⟩, ⟨0, 2, 0⟩]) State.reset)
        (fun t => t.out.rbyte == 0xA4) = true ∧
      answers (exec (.pack [⟨6, 2, 3⟩, ⟨4, 2, 2⟩, ⟨2, 2, 2⟩, ⟨1, 1, 1⟩, ⟨0, 1, 1⟩]) State.reset)
        (fun t => t.out.rbyte == 0xEB) = true := by decide

/-- V-PACK-7, V-PACK-11, V-PACK-12, V-PACK-13: the reasons and their order. -/
theorem test_pack_refused :
    refusedBy (exec (.pack [⟨7, 1, 1⟩, ⟨5, 2, 1⟩, ⟨2, 3, 8⟩, ⟨0, 2, 0⟩]) State.reset) .packValue =
        true ∧
      refusedBy (exec (.pack [⟨0, 0, 0⟩, ⟨0, 8, 0⟩]) State.reset) .packRange = true ∧
      refusedBy (exec (.pack []) State.reset) .packCover = true ∧
      refusedBy (exec (.pack [⟨0, 8, 0⟩, ⟨0, 8, 9⟩]) State.reset) .packOverlap = true := by decide

/-- V-UNP-1, V-UNP-6, V-UNP-7. -/
theorem test_unpack :
    answers (exec (.unpack 0xA4 2 3) State.reset) (fun t => t.out.rbyte == 0x01) = true ∧
      answers (exec (.unpack 0xFF 3 5) State.reset) (fun t => t.out.rbyte == 0x1F) = true ∧
      answers (exec (.unpack 0x5A 1 3) State.reset) (fun t => t.out.rbyte == 0x05) = true := by
  decide

/-- V-UNP-8, V-UNP-9. -/
theorem test_unpack_refused :
    refusedBy (exec (.unpack 0xA4 7 2) State.reset) .unpackRange = true ∧
      refusedBy (exec (.unpack 0xA4 0 0) State.reset) .unpackRange = true := by decide

/-- V-CRC-1, rows 2, 3 and 9. -/
theorem test_crc :
    answers (exec (.crc ⟨0xFF, 0xFF, 0xFF, 0xFF, 0xFF, 0xFF⟩) State.reset)
        (fun t => t.out.rbyte == 0x1A) = true ∧
      answers (exec (.crc ⟨1, 2, 3, 4, 5, 6⟩) State.reset) (fun t => t.out.rbyte == 0xF4) = true ∧
      answers (exec (.crc ⟨0x12, 0x34, 0x56, 0x78, 0x9A, 0xBC⟩) State.reset)
        (fun t => t.out.rbyte == 0xA2) = true := by
  decide +kernel

/-- V-ADV-3 and V-ADV-8 in one vector: `WHEEL` 3 to 2, activate wins; and V-ADV-9's wrap of `TS`. -/
theorem test_advance :
    answers (exec (.advance 0x303) (stateWith { Regs.reset with ts := 7, wheel := 3 }))
      (fun t => t.regs.ts == 0 && t.regs.wheel == 2 && t.regs.estop && t.regs.prev == 0x303) =
        true := by decide

/-- V-ADV-13 and V-ADV-16, with the reference functions. -/
theorem test_advance_reference :
    advanceRegs referenceConfig { Regs.reset with ts := 2, wheel := 1, estop := true } 0x001 =
        { Regs.reset with ts := 3, wheel := 2, taimatu := 1, estop := true, prev := 0x001 } ∧
      advanceRegs referenceConfig { Regs.reset with prev := 0x080 } 0x0C0 =
        { Regs.reset with ts := 1, mg := 1, prev := 0x0C0 } := by decide

/-- V-BLD-3. -/
theorem test_build :
    answers
      (exec (.build 1 (-1) (999 / 1000))
        (stateWith ⟨7, 3, 2, 2, true, 1, false, true, true, 0⟩))
      (fun t => t.out.frameOut == ⟨0xBC, 0x7F, 0x81, 0x7E, 0xEB, 0xA0, 0x89⟩) = true := by
  decide +kernel

/-- V-BLD-4 and V-BLD-5: the two values of `ESTOP_ZERO_VEL`. -/
theorem test_build_estop :
    buildFrame referenceConfig ⟨7, 3, 2, 2, true, 1, true, true, true, 0⟩ 1 (-1) (999 / 1000) =
        ⟨0x3C, 0x7F, 0x81, 0x7E, 0x21, 0xA0, 0x42⟩ ∧
      buildFrame { referenceConfig with estopZeroVel := true }
          ⟨7, 3, 2, 2, true, 1, true, true, true, 0⟩ 1 (-1) (999 / 1000) =
        ⟨0x3C, 0x00, 0x00, 0x00, 0x21, 0xA0, 0xF6⟩ := by
  decide +kernel

/-- V-DUTY rows 2, 4, 6, 9, 11, 13 and 15. -/
theorem test_duty :
    [(-1 : Rat), -1 / 2, -3, -1 / 127, -999 / 1000, 127 / 128, -1 / 254].map dutyToInt =
      [-127, -63, -127, -1, -126, 126, 0] := by
  decide +kernel

/-- V-ENC-1 and V-ENC-5. -/
theorem test_encode :
    answers (exec (.encode ⟨0xA4, 0, 0, 0, 0, 0, 0x87⟩) State.reset)
        (fun t => t.out.wireOut == ascii "a4,00,00,00,00,00,87\r\n") = true ∧
      answers (exec (.encode ⟨0x0A, 0x0B, 0x0C, 0x0D, 0x0E, 0x0F, 0x10⟩) State.reset)
        (fun t => t.out.wireOut == ascii "0a,0b,0c,0d,0e,0f,10\r\n") = true := by
  decide +kernel

/-- V-DEC-2 and V-DEC-5 in one message: uppercase, and every trailing CR and LF stripped. -/
theorem test_decode_message :
    answers (exec (.decode (ascii "A4,00,00,00,00,00,87\n\r\r\n")) State.reset)
      (fun t => t.out.status == .ok && t.out.frameOut == ⟨0xA4, 0, 0, 0, 0, 0, 0x87⟩) = true := by
  decide

/-- V-DEC-8, V-DEC-12, V-DEC-18, V-DEC-21. -/
theorem test_decode_errors :
    (["", "zz,00,00,00,00,00,0x,00", "a4,00\r,00,00,00,00,87", "a4,00,00,00,00,00,87\r\nx"].map
        fun w => decodeWire (ascii w)) =
      [.error (.tokenCount 1), .error (.tokenCount 8), .error (.badToken 1), .error (.badToken 6)] :=
  by decide

/-- V-SC-5: reserved values reported as found, signed velocity, NG. -/
theorem test_selfcheck :
    answers (exec (.selfcheck (ascii "a7,80,00,00,ff,ff,00\r\n")) State.reset)
      (fun t => t.out.status == .ok && !t.out.crcOk && t.out.dfields ==
        { estopActive := false, datatype := 1, timestamp := 1, nodef := 3
          velX := -128, velY := 0, velYaw := 0
          wheel := 3, fire := 3, taimatu := 3, hand := true, angle := true
          speed := true, mg := 3, opt2Zero := 31
          crcRx := 0x00, crcCalc := 0x04, raw := ⟨0xA7, 0x80, 0, 0, 0xFF, 0xFF, 0⟩ }) = true := by
  decide +kernel

/-- V-SC-8 (match) and V-SC-7 (a format error). -/
theorem test_selfcheck_status :
    answers (exec (.selfcheck (ascii "00,00,00,00,00,00,00\r\n")) State.reset)
        (fun t => t.out.status == .ok && t.out.crcOk && t.out.dfields.estopActive) = true ∧
      answers (exec (.selfcheck (ascii "a4,00,00,00,00,00\r\n")) State.reset)
        (fun t => t.out.status == .formatError (.tokenCount 6)) = true := by
  decide +kernel

/-- V-TICK-3, with the reference functions. -/
theorem test_tick_reference :
    buildFrame referenceConfig (advanceRegs referenceConfig Regs.reset 0x111) (1 / 2) 0 0 =
      ⟨0x24, 0x3F, 0, 0, 0, 0, 0xF2⟩ := by
  decide +kernel

/-- V-TICK-1: the fields no OPEN function touches. -/
theorem test_tick :
    answers (exec (.tick 0x000 0 0 0) State.reset)
      (fun t => t.out.frameOut.header == 0xA4 && t.out.frameOut.velX == 0 &&
        t.regs.ts == 1 && t.out.wireOut.take 3 == ascii "a4,") = true := by
  decide +kernel

/-- A line of P6, and the buttons of V-TICK-3 as a set in braces, through the assembler. -/
theorem test_assemble :
    assembleLine (ascii "UNPACK byte=0xbc, off=2, width=3") = some [encode (.unpack 0xBC 2 3)] ∧
      assembleLine (ascii "ADVANCE btn=" ++ 0x7B#8 :: ascii "UP,FWD,ESTOP_ON" ++ [0x7D#8]) =
        some [encode (.advance 0x111)] := by
  decide +kernel

/-! ### Witnesses: states and operands that meet the hypotheses of the statements -/

/-- TICK of P1 with RESET to follow. -/
def tickThenReset : State := hostWith [encode (.tick 0 0 0 0), encode .reset]

theorem test_witness_step_decoded :
    tickThenReset.host = encode (.tick 0 0 0 0) :: [encode .reset] ∧
      decode (encode (.tick 0 0 0 0)) = .ok (.tick 0 0 0 0) := by
  exact ⟨rfl, rfl⟩

theorem test_witness_idle : State.reset.host = [] := by rfl

theorem test_witness_reserved :
    (hostWith [⟨0xA, Ports.idle⟩]).host = (⟨0xA, Ports.idle⟩ : Command) :: [] ∧
      0xA ≤ ((0xA : BitVec 4).toNat) ∧ 0xA ≤ ((0xF : BitVec 4).toNat) := by
  exact ⟨rfl, by decide, by decide⟩

/-- A command for every reason of R178's table. -/
theorem test_witness_refused_because :
    RefusedBecause ⟨0xA, Ports.idle⟩ (.illegalOp 0xA) ∧
      RefusedBecause ⟨0x2, { Ports.idle with ubyte := 256 }⟩ (.operandType .ubyte) ∧
      RefusedBecause ⟨0x3, { Ports.idle with crcIn := [0, 0, 0, 0, 0] }⟩ (.operandType .crcIn) ∧
      RefusedBecause ⟨0x9, { Ports.idle with btn := 4096 }⟩ (.operandType .btn) ∧
      RefusedBecause ⟨0x6, { Ports.idle with frameIn := [0, 0, 0, 0, 0, 0, 256] }⟩
        (.operandType .frameIn) ∧
      RefusedBecause ⟨0x8, { Ports.idle with wireIn := [256] }⟩ (.operandType .wireIn) := by
  simp [RefusedBecause, AreBytes]

theorem test_witness_refused_pack :
    RefusedBecause (encode (.pack [⟨8, 1, 0⟩])) .packRange ∧
      RefusedBecause (encode (.pack [⟨0, 8, 0⟩, ⟨0, 8, 0⟩])) .packOverlap ∧
      RefusedBecause (encode (.pack [])) .packCover ∧
      RefusedBecause (encode (.pack [⟨0, 8, 256⟩])) .packValue ∧
      RefusedBecause (encode (.unpack 0 8 1)) .unpackRange := by
  refine ⟨⟨rfl, rfl⟩, ⟨rfl, rfl, rfl⟩, ⟨rfl, rfl, rfl, rfl⟩, ⟨rfl, rfl, rfl, rfl, rfl⟩, rfl, ?_, ?_⟩
    <;> decide

/-- No reason of the table holds of `UNPACK` at the largest range. -/
theorem test_witness_not_refused :
    ∀ (c : Command) (rest : List Command) (r : Refusal),
      (hostWith [encode (.unpack 0xFF 0 8)]).host = c :: rest → ¬ RefusedBecause c r := by
  intro c rest r h
  cases h
  rcases r with _ | _ | p | _ | _ | _ | _ | _
  case operandType => cases p <;> simp [RefusedBecause, encode, opcodeOf, portsOf]
  all_goals simp [RefusedBecause, encode, opcodeOf, portsOf, Ports.idle]

theorem test_witness_encode_of_decode :
    decode ⟨0x2, { Ports.idle with ubyte := 255, uoff := 7, uwidth := 1, btn := 9999 }⟩ =
      .ok (.unpack 0xFF 7 1) := by rfl

theorem test_witness_inv : State.Inv State.reset ∧ ∃ t, step State.reset = .next t := by
  exact ⟨by unfold State.Inv RegsOf.Inv; decide, _, rfl⟩

theorem test_witness_inv_command :
    State.Inv (hostWith [encode (.advance 0xFFF)]) ∧
      ∃ t, step (hostWith [encode (.advance 0xFFF)]) = .next t := by
  exact ⟨by unfold State.Inv RegsOf.Inv; decide, _, rfl⟩

theorem test_witness_writes_registers :
    (hostWith [encode (.crc ⟨0, 0, 0, 0, 0, 0⟩)]).host =
        encode (.crc ⟨0, 0, 0, 0, 0, 0⟩) :: [] ∧
      (∃ t, step (hostWith [encode (.crc ⟨0, 0, 0, 0, 0, 0⟩)]) = .next t) ∧
      (encode (.crc ⟨0, 0, 0, 0, 0, 0⟩)).op ≠ 0x0 ∧ (encode (.crc ⟨0, 0, 0, 0, 0, 0⟩)).op ≠ 0x4 ∧
      (encode (.crc ⟨0, 0, 0, 0, 0, 0⟩)).op ≠ 0x9 := by
  exact ⟨rfl, ⟨_, rfl⟩, by decide, by decide, by decide⟩

/-- An ADVANCE of FWD, ESTOP_ON and UP from reset changes all three latches and `TS`. -/
theorem test_witness_latches :
    decode (encode (.advance 0x111)) = .ok (.advance 0x111) ∧ Instr.advance 0x111 ≠ .reset ∧
      answers (step (hostWith [encode (.advance 0x111)]))
        (fun t => t.regs.hand && t.regs.estop && t.regs.wheel == 1 && t.regs.ts == 1) = true := by
  exact ⟨rfl, by decide, by decide⟩

/-- The fields of the Firing byte, at their largest values. -/
def firingMax : List Field := [⟨6, 2, 3⟩, ⟨4, 2, 3⟩, ⟨2, 2, 3⟩, ⟨1, 1, 1⟩, ⟨0, 1, 1⟩]

theorem test_witness_pack :
    packWellFormed firingMax = true ∧ (⟨6, 2, 3⟩ : Field) ∈ firingMax ∧
      firingMax.Perm firingMax.reverse ∧ packWellFormed [⟨0, 8, 255⟩] = true := by
  exact ⟨by decide, by decide, (List.reverse_perm _).symm, by decide⟩

theorem test_witness_pack_inverts :
    packWellFormed (([⟨7, 1⟩, ⟨0, 7⟩] : List BitRange).map fun r => ⟨r.off, r.width, 0⟩) = true := by
  decide

/-- Both branches of UNPACK's statement, at the ends of the ranges. -/
theorem test_witness_unpack :
    (1 ≤ 8 ∧ 0 + 8 ≤ 8) ∧ (1 ≤ 1 ∧ 7 + 1 ≤ 8) ∧ ¬ (1 ≤ 0 ∧ 0 + 0 ≤ 8) ∧ ¬ (1 ≤ 2 ∧ 7 + 2 ≤ 8) := by
  decide

/-- The three bytes' fields, each as BUILD's pseudocode (43_frame_assembler.md R121) lists them. -/
theorem test_witness_build_fields :
    [⟨7, 1, 1⟩, ⟨5, 2, 1⟩, ⟨2, 3, 0⟩, ⟨0, 2, 0⟩] = headerFields Config.hw Regs.reset ∧
      firingMax = firingFields (⟨7, 3, 3, 3, true, 3, false, true, true, 0⟩ : Regs) ∧
      [⟨7, 1, 1⟩, ⟨5, 2, 3⟩, ⟨0, 5, 0⟩] =
        opt2Fields (⟨7, 3, 3, 3, true, 3, true, true, true, 0⟩ : Regs) := by decide

theorem test_witness_crc_error : (0x80 : Byte) ≠ 0 ∧ (0x01 : Byte) ≠ 0 := by decide

theorem test_witness_advances :
    (hostWith [encode (.advance 1), encode (.advance 0xFFF)]).host =
      ([1, 0xFFF] : List Buttons).map fun b => encode (.advance b) := by rfl

/-- The wheel's three clauses, the first two at the clamps (3 and 0) and just inside them. -/
theorem test_witness_wheel :
    (edge 0x000 0x001 0 = true ∧ edge 0x000 0x001 1 = false) ∧
      (edge 0x000 0x002 0 = false ∧ edge 0x000 0x002 1 = true) ∧
      (edge 0x003 0x003 0 = false ∧ edge 0x003 0x003 1 = false) ∧
      ([3, 2].map fun w => nextWheel w (0x000 : Buttons) 0x001) = [3, 3] ∧
      ([0, 1].map fun w => nextWheel w (0x000 : Buttons) 0x002) = [0, 0] := by decide

/-- The three pairs of edges in one vector. -/
theorem test_witness_simultaneous :
    ([0, 1, 4, 5, 8, 9].all fun k => edge 0x000 0x333 k) = true := by decide

theorem test_witness_hand :
    (edge 0x000 0x010 4 = true ∧ edge 0x000 0x010 5 = false) ∧
      (edge 0x000 0x020 4 = false ∧ edge 0x000 0x020 5 = true) ∧
      (edge 0x010 0x010 4 = false ∧ edge 0x010 0x010 5 = false) := by decide

theorem test_witness_estop :
    (edge 0x000 0x100 8 = true ∧ edge 0x000 0x100 9 = false) ∧
      (edge 0x000 0x200 8 = false ∧ edge 0x000 0x200 9 = true) ∧
      (edge 0x100 0x100 8 = false ∧ edge 0x100 0x100 9 = false) := by decide

/-- Two states that differ everywhere but in `MG` and bits 6 and 7 of the vectors. -/
theorem test_witness_mg :
    (stateWith Regs.reset).regs.mg = (stateWith { Regs.reset with ts := 5, prev := 0xF3F }).regs.mg ∧
      ∀ k, k = 6 ∨ k = 7 →
        (stateWith Regs.reset).regs.prev.getLsbD k =
            (stateWith { Regs.reset with ts := 5, prev := 0xF3F }).regs.prev.getLsbD k ∧
          (0x0C0 : Buttons).getLsbD k = (0xFFF : Buttons).getLsbD k := by
  refine ⟨rfl, ?_⟩
  rintro k (rfl | rfl) <;> decide

theorem test_witness_estop_differs :
    (stateWith { Regs.reset with estop := true }).regs =
      { (stateWith Regs.reset).regs with estop := true } := by rfl

theorem test_witness_prev_differs :
    (stateWith { Regs.reset with prev := 0xFFF }).regs =
      { (stateWith Regs.reset).regs with prev := 0xFFF } := by rfl

/-- The registers at the largest values `INV` allows. -/
theorem test_witness_inv_largest :
    State.Inv (stateWith ⟨7, 3, 2, 2, true, 3, true, true, true, 0xFFF⟩) := by
  unfold State.Inv RegsOf.Inv; decide

/-- Both branches of the frame's read after write, at its last index and past it. -/
theorem test_witness_frame_index :
    (6 = 6 ∧ 6 < 7) ∧ ¬ (7 = 7 ∧ 7 < 7) ∧ ¬ (5 = 6 ∧ 6 < 7) ∧
      frameRead ⟨0, 1, 2, 3, 4, 5, 6⟩ 6 = some 6 ∧ frameRead ⟨0, 1, 2, 3, 4, 5, 6⟩ 7 = none := by
  decide

/-- V-DEC-10 and V-DEC-11: 5 and 7 commas. -/
theorem test_witness_token_count :
    (ascii "a4,00,00,00,00,00\r\n").count 0x2C = 5 ∧
      (ascii "a4,00,00,00,00,00,87,\r\n").count 0x2C = 7 := by decide

/-- The tokens of V-DEC-13. -/
def badThird : List Wire := ["a4", "00", "00", "0g", "00", "00", "87"].map ascii

theorem test_witness_bad_token_splits : SplitsInto (ascii "a4,00,00,0g,00,00,87\r\n") badThird := by
  refine ⟨[0x0D, 0x0A], by decide, ?_, by decide, by decide, ?_⟩
  · simp [IsLineEnd]
  · intro ch h
    have h' : some (0x37 : Byte) = some ch := h
    cases h'
    simp [IsLineEnd]

theorem test_witness_bad_token_bad : ∀ b, ¬ TokenWrites (ascii "0g") b := by
  rintro b ⟨hi, lo, h, l, heq, -, hl, -⟩
  have e : ([0x30, 0x67] : Wire) = [hi, lo] := heq
  cases e
  simp [IsHexDigit] at hl
  omega

theorem test_witness_bad_token_lowest :
    badThird.length = 7 ∧ badThird[3]? = some (ascii "0g") ∧
      ∀ j, j < 3 → ∀ u, badThird[j]? = some u → ∃ b, TokenWrites u b := by
  refine ⟨rfl, rfl, ?_⟩
  have zero : TokenWrites (ascii "00") 0x00 :=
    ⟨0x30, 0x30, 0, 0, rfl, by simp [IsHexDigit], by simp [IsHexDigit], rfl⟩
  have first : TokenWrites (ascii "a4") 0xA4 :=
    ⟨0x61, 0x34, 10, 4, rfl, by simp [IsHexDigit], by simp [IsHexDigit], rfl⟩
  intro j hj u hu
  interval_cases j
  · cases hu; exact ⟨_, first⟩
  · cases hu; exact ⟨_, zero⟩
  · cases hu; exact ⟨_, zero⟩

theorem test_witness_decoded_ok :
    ∃ t, exec (.decode (ascii "A4,00,00,00,00,00,87\n")) State.reset = .next t ∧
      t.out.status = .ok := by
  exact ⟨_, rfl, by decide⟩

theorem test_witness_selfchecked_ok :
    ∃ t, exec (.selfcheck (ascii "a7,80,00,00,ff,ff,00\r\n")) State.reset = .next t ∧
      t.out.status = .ok := by
  exact ⟨_, rfl, by decide⟩

theorem test_witness_pure :
    (∃ t, exec (.pack firingMax) State.reset = .next t) ∧
      (∃ t, exec (.unpack 0xA4 2 3) State.reset = .next t) ∧
      (∃ t, exec (.crc ⟨1, 2, 3, 4, 5, 6⟩) State.reset = .next t) ∧
      (∃ t, exec (.encode ⟨0, 0, 0, 0, 0, 0, 0⟩) State.reset = .next t) ∧
      (∃ t, exec (.decode []) State.reset = .next t) ∧
      (∃ t, exec (.selfcheck []) State.reset = .next t) := by
  exact ⟨⟨_, rfl⟩, ⟨_, rfl⟩, ⟨_, rfl⟩, ⟨_, rfl⟩, ⟨_, rfl⟩, ⟨_, rfl⟩⟩

theorem test_witness_estop_edge : edge State.reset.regs.prev 0x100 8 = true := by decide

end Sys2Proof.Tests
end

section
/-!
PROOFS. Family 30_encoding: the Firing byte that BUILD packs (R63) and the message that ENCODE writes
(R68).
-/
namespace Sys2Proof.Machine

open Sys2Proof.Claims

/-! ### A packed byte as a number -/

/-- OR-ing in fields listed from the high end down is adding them: each one fits below every bit the
accumulator can have. -/
theorem foldl_or_eq_add_sum {fields : List Field} {a : Nat}
    (hdesc : fields.Pairwise fun f g => g.off + g.width ≤ f.off)
    (hfit : ∀ f ∈ fields, f.value < 2 ^ f.width)
    (habove : ∀ f ∈ fields, 2 ^ (f.off + f.width) ∣ a) :
    fields.foldl (fun r f => r ||| (f.value <<< f.off)) a =
      a + (fields.map fun f => f.value * 2 ^ f.off).sum := by
  induction fields generalizing a with
  | nil => simp
  | cons f fs ih =>
    obtain ⟨hbelow, hdesc⟩ := List.pairwise_cons.mp hdesc
    obtain ⟨hf, hfit⟩ := List.forall_mem_cons.mp hfit
    obtain ⟨haf, habove⟩ := List.forall_mem_cons.mp habove
    have hlt : f.value * 2 ^ f.off < 2 ^ (f.off + f.width) := by
      rw [pow_add, mul_comm]
      exact Nat.mul_lt_mul_of_pos_left hf (Nat.two_pow_pos _)
    have hor : a ||| (f.value <<< f.off) = a + f.value * 2 ^ f.off := by
      obtain ⟨q, rfl⟩ := haf
      rw [Nat.shiftLeft_eq, Nat.two_pow_add_eq_or_of_lt hlt]
    have habove' : ∀ g ∈ fs, 2 ^ (g.off + g.width) ∣ a + f.value * 2 ^ f.off := fun g hg =>
      (habove g hg).add ((pow_dvd_pow 2 (hbelow g hg)).mul_left _)
    rw [List.foldl_cons, hor, ih hdesc hfit habove', List.map_cons, List.sum_cons, add_assoc]

/-- PACK's byte, for fields listed from the high end down, is the sum of the values at their weights,
bits 7-0 of it. -/
theorem packByte_toNat_of_descending {fields : List Field}
    (hdesc : fields.Pairwise fun f g => g.off + g.width ≤ f.off)
    (hfit : ∀ f ∈ fields, f.value < 2 ^ f.width) :
    (packByte fields).toNat = (fields.map fun f => f.value * 2 ^ f.off).sum % 256 := by
  rw [packByte, BitVec.toNat_ofNat, foldl_or_eq_add_sum hdesc hfit (by simp), Nat.zero_add]

/-! ### BUILD's Firing byte -/

theorem unlessEstop_lt {r : Regs} {v b : Nat} (h : v < b) : unlessEstop r v < b := by
  unfold unlessEstop
  split <;> omega

theorem bitNat_lt_two (b : Bool) : bitNat b < 2 := by cases b <;> decide

/-- The firing fields in the statement's vocabulary. -/
theorem firingFields_eq (r : Regs) :
    firingFields r =
      [⟨6, 2, unlessEstop r r.wheel.toNat⟩, ⟨4, 2, r.fire.toNat⟩,
       ⟨2, 2, unlessEstop r r.taimatu.toNat⟩, ⟨1, 1, unlessEstop r (bitNat r.hand)⟩,
       ⟨0, 1, bitNat r.angle⟩] := by
  have htoNat (b : Bool) : b.toNat = bitNat b := by cases b <;> rfl
  simp [firingFields, fieldAt, firWheel, firFire, firTaimatu, firHand, firAngle, unlessEstop, htoNat]

/-- The Firing byte by its cells (30_encoding.md R63). -/
theorem packByte_firingFields_toNat (r : Regs) :
    (packByte (firingFields r)).toNat =
      64 * unlessEstop r r.wheel.toNat + 16 * r.fire.toNat + 4 * unlessEstop r r.taimatu.toNat +
        2 * unlessEstop r (bitNat r.hand) + bitNat r.angle := by
  have hwheel : unlessEstop r r.wheel.toNat < 4 := unlessEstop_lt r.wheel.isLt
  have hfire : r.fire.toNat < 4 := r.fire.isLt
  have htaimatu : unlessEstop r r.taimatu.toNat < 4 := unlessEstop_lt r.taimatu.isLt
  have hhand : unlessEstop r (bitNat r.hand) < 2 := unlessEstop_lt (bitNat_lt_two _)
  have hangle : bitNat r.angle < 2 := bitNat_lt_two _
  rw [firingFields_eq, packByte_toNat_of_descending (by simp)
    (by simp [hwheel, hfire, htaimatu, hhand, hangle])]
  simp only [List.map_cons, List.map_nil, List.sum_cons, List.sum_nil]
  omega

@[simp] theorem buildFrame_firing (cfg : Config) (r : RegsOf cfg.nbtn) (dx dy dyaw : Rat) :
    (buildFrame cfg r dx dy dyaw).firing = packByte (firingFields r) := rfl

/-- Settles O38: BUILD's outcome, with the packed firing fields read as a number. -/
theorem buildFiringByte : Obligations.BuildFiringByte := by
  intro s dx dy dyaw
  refine ⟨_, exec_build s dx dy dyaw, State.commit_regs .., ?_⟩
  rw [State.commit_out, buildFrame_firing, packByte_firingFields_toNat]

/-! ### ENCODE's message, character by character -/

/-- The digit ENCODE writes is the one R68's table of lowercase codes gives. -/
theorem lowerHexCodes_getElem? {n : Nat} (h : n < 16) :
    lowerHexCodes[n]? = some (hexLower n) := by
  have hall : ∀ n : Fin 16, lowerHexCodes[n.val]? = some (hexLower n.val) := by decide
  exact hall ⟨n, h⟩

/-- Byte `k` of the frame stands at characters `3k` and `3k + 1`, high nibble first. -/
theorem encodeFrame_digits {f : Frame} {k : Nat} {b : Byte} (h : frameRead f k = some b) :
    wireChar (encodeFrame f) (3 * k) = some (hexLower (b.toNat / 16)) ∧
      wireChar (encodeFrame f) (3 * k + 1) = some (hexLower (b.toNat % 16)) := by
  obtain ⟨hk, rfl⟩ := List.getElem?_eq_some_iff.mp h
  have hk7 : k < 7 := hk
  interval_cases k <;> exact ⟨rfl, rfl⟩

/-- A comma stands after each of the first six bytes. -/
theorem encodeFrame_comma (f : Frame) {k : Nat} (h : k < 6) :
    wireChar (encodeFrame f) (3 * k + 2) = some comma := by
  interval_cases k <;> rfl

theorem encodeFrame_carriageReturn (f : Frame) :
    wireChar (encodeFrame f) 20 = some carriageReturn := rfl

theorem encodeFrame_lineFeed (f : Frame) : wireChar (encodeFrame f) 21 = some lineFeed := rfl

/-- Settles O45: ENCODE's outcome, with `WIRE_OUT` read at each of its 22 positions. -/
theorem encodeWritesTheWireFormat : Obligations.EncodeWritesTheWireFormat := by
  intro s f
  refine ⟨_, exec_encode s f, State.commit_regs .., State.commit_host .., encodeFrame_length f, ?_,
    fun _ hk => encodeFrame_comma f hk, encodeFrame_carriageReturn f, encodeFrame_lineFeed f⟩
  intro k b hb
  obtain ⟨hhigh, hlow⟩ := encodeFrame_digits hb
  have hlt := b.isLt
  rw [lowerHexCodes_getElem? (n := b.toNat / 16) (by omega),
    lowerHexCodes_getElem? (n := b.toNat % 16) (by omega)]
  exact ⟨hhigh, hlow⟩

end Sys2Proof.Machine
end

section
/-!
PROOFS. Family 42_state_tracker: the timestamp over a run of ADVANCEs (R98), the wheel's steps on D-pad
edges (R99) and the ESTOP latch (R110).
-/
namespace Sys2Proof.Machine

/-! ### A run of ADVANCEs -/

/-- A word read back from its own port value is that word. -/
@[simp] theorem typedWord_toNat (port : Port) {n : Nat} (b : BitVec n) :
    typedWord port n b.toNat = .ok b := by
  simp [typedWord, b.isLt]

theorem decode_encode_advance (b : Buttons) : decode (encode (.advance b)) = .ok (.advance b) :=
  congrArg (Except.map Instr.advance) (typedWord_toNat .btn b)

/-- The step that takes an ADVANCE from the host. -/
theorem step_advance {s : State} {b : Buttons} {rest : List Command}
    (h : s.host = encode (.advance b) :: rest) :
    step s = .next ((s.taken rest).commit (advanceRegs Config.hw s.regs b) s.undefinedOut) := by
  rw [step, fetch_command h (decode_encode_advance b)]
  exact exec_advance ..

/-- ADVANCE counts the timestamp by one, modulo 8 (42_state_tracker.md R98). -/
theorem advanceRegs_ts_toNat (cfg : Config) (r : RegsOf cfg.nbtn) (b : BitVec cfg.nbtn) :
    (advanceRegs cfg r b).ts.toNat = (r.ts.toNat + 1) % 8 := by
  simp

/-- Settles O26, by induction on the vectors of the ADVANCEs still to come. -/
theorem advancesCountTimestampModulo8 : Obligations.AdvancesCountTimestampModulo8 := by
  intro btns
  induction btns with
  | nil =>
    intro s hhost
    exact ⟨s, run_zero s, (Nat.mod_eq_of_lt s.regs.ts.isLt).symm, hhost⟩
  | cons b bs ih =>
    intro s hhost
    obtain ⟨t, hrun, hts, hempty⟩ :=
      ih ((s.taken _).commit (advanceRegs Config.hw s.regs b) s.undefinedOut) rfl
    refine ⟨t, (run_succ (step_advance hhost)).trans hrun, ?_, hempty⟩
    rw [hts, State.commit_regs, advanceRegs_ts_toNat, List.length_cons]
    omega

/-! ### The wheel -/

section
variable {n : Nat} {p c : BitVec n} (w : BitVec 2)

/-- The wheel's next level as a number: the clamps keep it within its two bits. -/
theorem nextWheel_toNat :
    (nextWheel w p c).toNat =
      (if rise p c .up then min (w.toNat + 1) 3 else w.toNat) -
        (if rise p c .down then 1 else 0) := by
  have hw := w.isLt
  simp only [nextWheel, Config.wheelMax, BitVec.toNat_ofNat]
  split <;> split <;> omega

/-- An up edge alone steps the wheel up, clamped at 3. -/
theorem nextWheel_of_up (hup : rise p c .up = true) (hdown : rise p c .down = false) :
    (nextWheel w p c).toNat = if w.toNat = 3 then 3 else w.toNat + 1 := by
  have hw := w.isLt
  simp only [nextWheel_toNat, hup, hdown, if_true, Bool.false_eq_true, if_false]
  split <;> omega

/-- A down edge alone steps the wheel down, clamped at 0. -/
theorem nextWheel_of_down (hup : rise p c .up = false) (hdown : rise p c .down = true) :
    (nextWheel w p c).toNat = if w.toNat = 0 then 0 else w.toNat - 1 := by
  simp only [nextWheel_toNat, hup, hdown, if_true, Bool.false_eq_true, if_false]
  split <;> omega

/-- With neither edge the wheel stays. -/
theorem nextWheel_of_no_edge (hup : rise p c .up = false) (hdown : rise p c .down = false) :
    nextWheel w p c = w := by
  apply BitVec.eq_of_toNat_eq
  simp [nextWheel_toNat, hup, hdown]

end

/-- Settles O27: ADVANCE's outcome, with one rule of the wheel per combination of edges; `edge` at bits
0 and 1 is `rise` of the up and down buttons by definition. -/
theorem advanceStepsWheelOnEdges : Obligations.AdvanceStepsWheelOnEdges := by
  intro s btn
  exact ⟨_, exec_advance s btn, State.commit_host .., nextWheel_of_up _, nextWheel_of_down _,
    nextWheel_of_no_edge _⟩

/-! ### The ESTOP latch -/

section
variable {n : Nat} {p c : BitVec n} (e : Bool)

/-- An activate edge sets the latch, whatever the deactivate button does. -/
theorem nextEstop_of_activate (hon : rise p c .estopOn = true) : nextEstop e p c = true := by
  simp [nextEstop, hon]

/-- A deactivate edge alone clears the latch. -/
theorem nextEstop_of_deactivate (hon : rise p c .estopOn = false) (hoff : rise p c .estopOff = true) :
    nextEstop e p c = false := by
  simp [nextEstop, hon, hoff]

/-- With neither edge the latch persists. -/
theorem nextEstop_of_no_edge (hon : rise p c .estopOn = false) (hoff : rise p c .estopOff = false) :
    nextEstop e p c = e := by
  simp [nextEstop, hon, hoff]

end

/-- Settles O30: ADVANCE's outcome, with one rule of the latch per combination of edges; `edge` at bits
8 and 9 is `rise` of the activate and deactivate buttons by definition. -/
theorem advanceEstopLatch : Obligations.AdvanceEstopLatch := by
  intro s btn
  exact ⟨_, exec_advance s btn, fun hon _ => nextEstop_of_activate _ hon,
    nextEstop_of_deactivate _, nextEstop_of_no_edge _⟩

end Sys2Proof.Machine
end

section
/-!
PROOFS. Family 43_frame_assembler: the Opt2 byte that BUILD packs (R127) and the velocity byte that no
duty gives (R124).
-/
namespace Sys2Proof.Machine

open Sys2Proof.Claims

/-! ### BUILD's Opt2 byte -/

theorem toNat_eq_bitNat (b : Bool) : b.toNat = bitNat b := by cases b <;> rfl

/-- The Opt2 fields in the statement's vocabulary; `ESTOP` is not among what they read. -/
theorem opt2Fields_eq {n : Nat} (r : RegsOf n) :
    opt2Fields r = [⟨7, 1, bitNat r.speed⟩, ⟨5, 2, r.mg.toNat⟩, ⟨0, 5, 0⟩] := by
  simp [opt2Fields, fieldAt, optSpeed, optMg, optZero, toNat_eq_bitNat]

/-- The Opt2 byte by its cells (43_frame_assembler.md R127). -/
theorem packByte_opt2Fields_toNat {n : Nat} (r : RegsOf n) :
    (packByte (opt2Fields r)).toNat = 128 * bitNat r.speed + 32 * r.mg.toNat := by
  have hspeed : bitNat r.speed < 2 := bitNat_lt_two _
  have hmg : r.mg.toNat < 4 := r.mg.isLt
  rw [opt2Fields_eq, packByte_toNat_of_descending (by simp) (by simp [hspeed, hmg])]
  simp only [List.map_cons, List.map_nil, List.sum_cons, List.sum_nil]
  omega

section
variable (cfg : Config) (r : RegsOf cfg.nbtn) (dx dy dyaw : Rat)

@[simp] theorem buildFrame_opt2 :
    (buildFrame cfg r dx dy dyaw).opt2 = packByte (opt2Fields r) := rfl
@[simp] theorem buildFrame_velX : (buildFrame cfg r dx dy dyaw).velX = velByte cfg r dx := rfl
@[simp] theorem buildFrame_velY : (buildFrame cfg r dx dy dyaw).velY = velByte cfg r dy := rfl
@[simp] theorem buildFrame_velYaw : (buildFrame cfg r dx dy dyaw).velYaw = velByte cfg r dyaw := rfl

end

/-- Settles O39: BUILD's outcome, with the packed Opt2 fields read as a number. -/
theorem buildOpt2Byte : Obligations.BuildOpt2Byte := by
  intro s dx dy dyaw
  refine ⟨_, exec_build s dx dy dyaw, ?_⟩
  rw [State.commit_out, buildFrame_opt2, packByte_opt2Fields_toNat]

/-! ### The velocity bytes -/

/-- The byte of a duty reads back as the duty's integer: the clamp keeps it within a signed byte. -/
theorem u8_dutyToInt_toInt (d : Rat) : (u8 (dutyToInt d)).toInt = dutyToInt d := by
  obtain ⟨hlo, hhi⟩ := dutyToInt_range d
  exact u8_toInt _ (by omega) hhi

/-- A velocity byte as a signed number: the duty's integer, or 0 where ESTOP zeroes it
(43_frame_assembler.md R122, R128). -/
theorem velByte_toInt (cfg : Config) (r : RegsOf cfg.nbtn) (d : Rat) :
    (velByte cfg r d).toInt = if r.estop && cfg.estopZeroVel then 0 else dutyToInt d := by
  unfold velByte
  split
  · rfl
  · exact u8_dutyToInt_toInt d

/-- No velocity byte is `0x80`, which reads as -128: a zeroed byte reads as 0, and a duty's integer is
at least -127 (43_frame_assembler.md R124). -/
theorem velByte_ne_0x80 (cfg : Config) (r : RegsOf cfg.nbtn) (d : Rat) : velByte cfg r d ≠ 0x80 := by
  intro h
  have hint : (if r.estop && cfg.estopZeroVel then 0 else dutyToInt d) = -128 :=
    (velByte_toInt cfg r d).symm.trans (congrArg BitVec.toInt h)
  obtain ⟨hlo, -⟩ := dutyToInt_range d
  split at hint <;> omega

/-- Settles O41: BUILD's outcome, each of whose velocity bytes is a `velByte`. -/
theorem buildNeverProduces80 : Obligations.BuildNeverProduces80 := by
  intro s dx dy dyaw
  refine ⟨_, exec_build s dx dy dyaw, ?_⟩
  rw [State.commit_out, buildFrame_velX, buildFrame_velY, buildFrame_velYaw]
  exact ⟨velByte_ne_0x80 _ _ _, velByte_ne_0x80 _ _ _, velByte_ne_0x80 _ _ _⟩

end Sys2Proof.Machine
end

section
/-!
PROOFS. The command port (30_encoding.md): what the typed ports accept, the decoder as the inverse
of the encoder, and the steps that take a command.
-/
namespace Sys2Proof.Machine

open Sys2Proof.Claims

/-! ### Typed ports -/

/-- A port accepts exactly the numbers of words, each as its word. -/
theorem typedWord_eq_ok_iff {port : Port} {n v : Nat} {b : BitVec n} :
    typedWord port n v = .ok b ↔ b.toNat = v := by
  constructor
  · intro h
    unfold typedWord at h
    split at h
    · rename_i hlt
      cases h
      exact (BitVec.toNat_ofNat ..).trans (Nat.mod_eq_of_lt hlt)
    · cases h
  · rintro rfl
    exact typedWord_toNat port b

theorem typedWord_eq_error_iff {port : Port} {n v : Nat} {e : Reject} :
    typedWord port n v = .error e ↔ 2 ^ n ≤ v ∧ e = .operandType port := by
  unfold typedWord
  split
  · simp; omega
  · simp [eq_comm]; omega

/-- A sequence port accepts exactly the numbers of byte sequences. -/
theorem typedBytes_eq_ok_iff {port : Port} {vs : List Nat} {bs : List Byte} :
    typedBytes port vs = .ok bs ↔ bs.map BitVec.toNat = vs := by
  induction vs generalizing bs with
  | nil => cases bs <;> simp [typedBytes]
  | cons v vs ih =>
    constructor
    · intro h
      unfold typedBytes at h
      split at h
      · rename_i b bs' hb hbs
        cases h
        simp [typedWord_eq_ok_iff.mp hb, ih.mp hbs]
      · cases h
    · intro h
      obtain ⟨b, bs, rfl, rfl, htail⟩ := List.map_eq_cons_iff.mp h
      simp [typedBytes, ih.mpr htail]

/-- The numbers of bytes are those below 256. -/
theorem exists_bytes_iff {vs : List Nat} :
    (∃ bs : List Byte, bs.map BitVec.toNat = vs) ↔ ∀ v ∈ vs, v < 256 := by
  constructor
  · rintro ⟨bs, rfl⟩
    exact Laws.areBytes_map bs
  · intro h
    refine ⟨vs.map (BitVec.ofNat 8), ?_⟩
    rw [List.map_map]
    exact (List.map_congr_left fun v hv => Nat.mod_eq_of_lt (h v hv)).trans (List.map_id vs)

/-- The numbers of `n` bytes, as the statements say it. -/
theorem areBytes_iff {n : Nat} {vs : List Nat} :
    AreBytes n vs ↔ ∃ bs : List Byte, bs.length = n ∧ bs.map BitVec.toNat = vs := by
  rw [AreBytes, ← exists_bytes_iff]
  constructor
  · rintro ⟨hlen, bs, rfl⟩
    exact ⟨bs, by simpa using hlen, rfl⟩
  · rintro ⟨bs, hlen, rfl⟩
    exact ⟨by simpa using hlen, bs, rfl⟩

/-- A sequence port refuses a sequence with a number past a byte, by its own name. -/
theorem typedBytes_eq_error_iff {port : Port} {vs : List Nat} {e : Reject} :
    typedBytes port vs = .error e ↔ (∃ v ∈ vs, 256 ≤ v) ∧ e = .operandType port := by
  have hname : ∀ e', typedBytes port vs = .error e' → e' = .operandType port := by
    intro e' h
    cases vs with
    | nil => cases h
    | cons v vs =>
      unfold typedBytes at h
      split at h <;> cases h
      rfl
  cases h : typedBytes port vs with
  | ok bs =>
    have hlt : ∀ v ∈ vs, v < 256 := exists_bytes_iff.mp ⟨bs, typedBytes_eq_ok_iff.mp h⟩
    simpa using fun v hv hbig => absurd (hlt v hv) (by omega)
  | error e' =>
    have hbig : ∃ v ∈ vs, 256 ≤ v := by
      by_contra hno
      obtain ⟨bs, hbs⟩ := exists_bytes_iff.mpr (by simpa using hno)
      rw [typedBytes_eq_ok_iff.mpr hbs] at h
      cases h
    simp [hname e' h, hbig, eq_comm]

/-- Six bytes are the bytes of a CRC input. -/
theorem exists_blockBytes_eq {bs : List Byte} (h : bs.length = 6) : ∃ m, blockBytes m = bs :=
  match bs, h with
  | [b0, b1, b2, b3, b4, b5], _ => ⟨⟨b0, b1, b2, b3, b4, b5⟩, rfl⟩

/-- Seven bytes are the bytes of a frame. -/
theorem exists_frameBytes_eq {bs : List Byte} (h : bs.length = 7) : ∃ f, frameBytes f = bs :=
  match bs, h with
  | [b0, b1, b2, b3, b4, b5, b6], _ => ⟨⟨b0, b1, b2, b3, b4, b5, b6⟩, rfl⟩

theorem typedCrcIn_eq_ok_iff {vs : List Nat} {m : CrcBlock} :
    typedCrcIn vs = .ok m ↔ (blockBytes m).map BitVec.toNat = vs := by
  constructor
  · intro h
    unfold typedCrcIn at h
    split at h
    · rename_i hbs
      cases h
      exact typedBytes_eq_ok_iff.mp hbs
    · cases h
  · intro h
    simp [typedCrcIn, typedBytes_eq_ok_iff.mpr h, blockBytes]

theorem typedFrameIn_eq_ok_iff {vs : List Nat} {f : Frame} :
    typedFrameIn vs = .ok f ↔ (frameBytes f).map BitVec.toNat = vs := by
  constructor
  · intro h
    unfold typedFrameIn at h
    split at h
    · rename_i hbs
      cases h
      exact typedBytes_eq_ok_iff.mp hbs
    · cases h
  · intro h
    simp [typedFrameIn, typedBytes_eq_ok_iff.mpr h, frameBytes]

/-- A port that accepts exactly the numbers of an operand's `n` bytes, and refuses by one name,
refuses exactly what is not `n` bytes. -/
theorem error_iff_not_areBytes {α : Type} {x : Except Reject α} {bytes : α → List Byte} {n : Nat}
    {vs : List Nat} {port : Port} (hok : ∀ a, x = .ok a ↔ (bytes a).map BitVec.toNat = vs)
    (hlen : ∀ bs, bs.length = n ↔ ∃ a, bytes a = bs)
    (hname : ∀ e, x = .error e → e = .operandType port) (e : Reject) :
    x = .error e ↔ ¬ AreBytes n vs ∧ e = .operandType port := by
  have haccept : AreBytes n vs ↔ ∃ a, x = .ok a := by
    simp only [areBytes_iff, hlen, hok]
    exact ⟨fun ⟨_, ⟨a, ha⟩, hbs⟩ => ⟨a, ha ▸ hbs⟩, fun ⟨a, ha⟩ => ⟨_, ⟨a, rfl⟩, ha⟩⟩
  rw [haccept]
  cases x with
  | ok a => simp
  | error e' => simp [hname e' rfl, eq_comm]

theorem typedCrcIn_eq_error_iff {vs : List Nat} {e : Reject} :
    typedCrcIn vs = .error e ↔ ¬ AreBytes 6 vs ∧ e = .operandType .crcIn := by
  refine error_iff_not_areBytes (fun _ => typedCrcIn_eq_ok_iff)
    (fun bs => ⟨exists_blockBytes_eq, fun ⟨m, hm⟩ => hm ▸ rfl⟩) (fun e' h => ?_) e
  unfold typedCrcIn at h
  split at h <;> cases h
  rfl

theorem typedFrameIn_eq_error_iff {vs : List Nat} {e : Reject} :
    typedFrameIn vs = .error e ↔ ¬ AreBytes 7 vs ∧ e = .operandType .frameIn := by
  refine error_iff_not_areBytes (fun _ => typedFrameIn_eq_ok_iff)
    (fun bs => ⟨exists_frameBytes_eq, fun ⟨f, hf⟩ => hf ▸ rfl⟩) (fun e' h => ?_) e
  unfold typedFrameIn at h
  split at h <;> cases h
  rfl

/-! ### The decoder, opcode by opcode -/

section
variable (p : Ports)

theorem decode_op_reset : decode ⟨0x0, p⟩ = .ok .reset := rfl
theorem decode_op_pack : decode ⟨0x1, p⟩ = .ok (.pack p.fields) := rfl
theorem decode_op_unpack :
    decode ⟨0x2, p⟩ = (typedWord .ubyte 8 p.ubyte).map fun b => .unpack b p.uoff p.uwidth := rfl
theorem decode_op_crc : decode ⟨0x3, p⟩ = (typedCrcIn p.crcIn).map .crc := rfl
theorem decode_op_advance :
    decode ⟨0x4, p⟩ = (typedWord .btn Config.hw.nbtn p.btn).map .advance := rfl
theorem decode_op_build : decode ⟨0x5, p⟩ = .ok (.build p.dutyX p.dutyY p.dutyYaw) := rfl
theorem decode_op_encode : decode ⟨0x6, p⟩ = (typedFrameIn p.frameIn).map .encode := rfl
theorem decode_op_decode : decode ⟨0x7, p⟩ = (typedBytes .wireIn p.wireIn).map .decode := rfl
theorem decode_op_selfcheck : decode ⟨0x8, p⟩ = (typedBytes .wireIn p.wireIn).map .selfcheck := rfl
theorem decode_op_tick :
    decode ⟨0x9, p⟩ =
      (typedWord .btn Config.hw.nbtn p.btn).map fun b => .tick b p.dutyX p.dutyY p.dutyYaw := rfl

theorem decode_op_reserved {op : BitVec 4} (h : 0xA ≤ op.toNat) :
    decode ⟨op, p⟩ = .error (.illegalOp op) := by
  unfold decode
  split
  case h_11 => rfl
  all_goals rename_i heq; simp only at heq; omega

end

/-- Every operation code is one of the ten, or reserved (30_encoding.md R57, R58). -/
theorem op_cases (op : BitVec 4) :
    op = 0x0 ∨ op = 0x1 ∨ op = 0x2 ∨ op = 0x3 ∨ op = 0x4 ∨ op = 0x5 ∨ op = 0x6 ∨ op = 0x7 ∨
      op = 0x8 ∨ op = 0x9 ∨ 0xA ≤ op.toNat := by
  revert op
  decide

/-- A mapped answer is accepted where the answer is. -/
theorem map_eq_ok_iff {α β ε : Type} {f : α → β} {x : Except ε α} {b : β} :
    x.map f = .ok b ↔ ∃ a, x = .ok a ∧ f a = b := by
  cases x <;> simp [Except.map]

/-! ### The decoder and the encoder -/

/-- What the decoder accepts is what the encoder writes, on the opcode and the ports its rule
names. -/
theorem encode_of_decode {c : Command} {i : Instr} (h : decode c = .ok i) :
    (encode i).op = c.op ∧ SamePorts i (encode i).ports c.ports := by
  obtain ⟨op, p⟩ := c
  rcases op_cases op with rfl | rfl | rfl | rfl | rfl | rfl | rfl | rfl | rfl | rfl | hres
  · cases h
    exact ⟨rfl, trivial⟩
  · cases h
    exact ⟨rfl, rfl⟩
  · obtain ⟨b, hb, rfl⟩ := map_eq_ok_iff.mp (decode_op_unpack p ▸ h)
    exact ⟨rfl, typedWord_eq_ok_iff.mp hb, rfl, rfl⟩
  · obtain ⟨m, hm, rfl⟩ := map_eq_ok_iff.mp (decode_op_crc p ▸ h)
    exact ⟨rfl, typedCrcIn_eq_ok_iff.mp hm⟩
  · obtain ⟨b, hb, rfl⟩ := map_eq_ok_iff.mp (decode_op_advance p ▸ h)
    exact ⟨rfl, typedWord_eq_ok_iff.mp hb⟩
  · cases h
    exact ⟨rfl, rfl, rfl, rfl⟩
  · obtain ⟨f, hf, rfl⟩ := map_eq_ok_iff.mp (decode_op_encode p ▸ h)
    exact ⟨rfl, typedFrameIn_eq_ok_iff.mp hf⟩
  · obtain ⟨w, hw, rfl⟩ := map_eq_ok_iff.mp (decode_op_decode p ▸ h)
    exact ⟨rfl, typedBytes_eq_ok_iff.mp hw⟩
  · obtain ⟨w, hw, rfl⟩ := map_eq_ok_iff.mp (decode_op_selfcheck p ▸ h)
    exact ⟨rfl, typedBytes_eq_ok_iff.mp hw⟩
  · obtain ⟨b, hb, rfl⟩ := map_eq_ok_iff.mp (decode_op_tick p ▸ h)
    exact ⟨rfl, typedWord_eq_ok_iff.mp hb, rfl, rfl, rfl⟩
  · rw [decode_op_reserved p hres] at h
    cases h

/-- Settles O6. -/
theorem encodeOfDecode : Obligations.EncodeOfDecode := fun _ _ => encode_of_decode

/-- Settles O5, command by command: each port the encoder writes is accepted as the operand it was
written from. -/
theorem decodeOfEncode : Obligations.DecodeOfEncode := by
  intro i
  cases i with
  | reset => exact decode_op_reset _
  | pack fields => exact decode_op_pack _
  | unpack b off width => exact congrArg (Except.map _) (typedWord_toNat .ubyte b)
  | crc m => exact congrArg (Except.map _) (typedCrcIn_eq_ok_iff.mpr rfl)
  | advance b => exact decode_encode_advance b
  | build dx dy dyaw => exact decode_op_build _
  | encode f => exact congrArg (Except.map _) (typedFrameIn_eq_ok_iff.mpr rfl)
  | decode w => exact congrArg (Except.map _) (typedBytes_eq_ok_iff.mpr rfl)
  | selfcheck w => exact congrArg (Except.map _) (typedBytes_eq_ok_iff.mpr rfl)
  | tick b dx dy dyaw => exact congrArg (Except.map _) (typedWord_toNat .btn b)

/-! ### Steps that take a command -/

/-- Settles O1. -/
theorem stepRunsDecodedCommand : Obligations.StepRunsDecodedCommand := by
  intro s c rest i hhost hdec
  rw [step, fetch_command hhost hdec]
  rfl

/-- Settles O2. -/
theorem idleStepKeepsState : Obligations.IdleStepKeepsState := by
  intro s hhost
  rw [step, fetch_idle hhost]

/-- Settles O3. -/
theorem reservedOpcodesAreRefused : Obligations.ReservedOpcodesAreRefused := by
  intro s c rest hhost hres
  rw [step, fetch_rejected hhost (decode_op_reserved c.ports hres)]
  rfl

/-- Settles O7: each word's row of the decoder, at the idle ports. -/
theorem tableWordsDecode : Obligations.TableWordsDecode := by
  exact ⟨rfl, rfl, rfl, rfl, rfl, rfl, rfl, rfl, rfl, rfl, rfl, rfl, rfl, rfl, rfl, rfl⟩

/-- Settles O8. -/
theorem assemblerReadsProgramLines : Obligations.AssemblerReadsProgramLines := by
  unfold Obligations.AssemblerReadsProgramLines
  decide +kernel

end Sys2Proof.Machine
end

section
/-!
PROOFS. The bit-field codec (40_bitfield_codec.md): PACK's check with masks is the well-formedness
said bit by bit (R77), and a packed byte has every field at its range (R78, R82, R83). Then the
table of reasons for which a step is refused (60_exceptions.md R178).
-/
namespace Sys2Proof.Machine

open Sys2Proof.Claims

/-! ### Ranges and bits -/

theorem hasBit_iff {f : Field} {k : Nat} :
    f.hasBit k = true ↔ f.off ≤ k ∧ k < f.off + f.width := by
  simp [Field.hasBit]

theorem fieldsInRange_iff {fields : List Field} :
    fieldsInRange fields = true ↔ ∀ f ∈ fields, 1 ≤ f.width ∧ f.off + f.width ≤ 8 := by
  simp [fieldsInRange, rangeOk]

theorem fieldsFit_iff {fields : List Field} :
    fieldsFit fields = true ↔ ∀ f ∈ fields, f.value < 2 ^ f.width := by
  simp [fieldsFit]

theorem fieldsCover_iff {fields : List Field} :
    fieldsCover fields = true ↔ ∀ k < 8, ∃ f ∈ fields, f.hasBit k = true := by
  simp [fieldsCover]

/-- A field in range has no bit past the byte. -/
theorem hasBit_lt_eight {fields : List Field} (h : fieldsInRange fields = true) {f : Field}
    (hf : f ∈ fields) {k : Nat} (hk : f.hasBit k = true) : k < 8 := by
  have hr := (fieldsInRange_iff.mp h f hf).2
  have hb := (hasBit_iff.mp hk).2
  omega

/-- At most one entry of a list has a property exactly when no two entries share it. -/
theorem countP_le_one_iff {α : Type} (p : α → Bool) (l : List α) :
    l.countP p ≤ 1 ↔ l.Pairwise fun a b => ¬ (p a = true ∧ p b = true) := by
  induction l with
  | nil => simp
  | cons a l ih =>
    rw [List.pairwise_cons, ← ih, List.countP_cons]
    by_cases ha : p a = true
    · have hnone : (∀ b ∈ l, ¬ p b = true) ↔ l.countP p = 0 := List.countP_eq_zero.symm
      simp only [ha, true_and, if_true, hnone]
      omega
    · simp [ha]

/-- Two fields share no bit. -/
def DisjointFields (f g : Field) : Prop := ∀ k, ¬ (f.hasBit k = true ∧ g.hasBit k = true)

theorem DisjointFields.symm {f g : Field} (h : DisjointFields f g) : DisjointFields g f :=
  fun k hk => h k hk.symm

/-- Fields in range are disjoint, bit by bit of the byte, exactly when any two entries are. -/
theorem fieldsDisjoint_iff {fields : List Field} (hrange : fieldsInRange fields = true) :
    fieldsDisjoint fields = true ↔ fields.Pairwise DisjointFields := by
  have hbits : fieldsDisjoint fields = true ↔
      ∀ k < 8, fields.Pairwise fun f g => ¬ (f.hasBit k = true ∧ g.hasBit k = true) := by
    simp only [fieldsDisjoint, List.all_eq_true, List.mem_range, decide_eq_true_eq,
      countP_le_one_iff]
  rw [hbits]
  constructor
  · refine fun h => List.pairwise_iff_forall_sublist.mpr fun {f g} hsub k hk => ?_
    have hf : f ∈ fields := hsub.subset (by simp)
    exact List.pairwise_iff_forall_sublist.mp (h k (hasBit_lt_eight hrange hf hk.1)) hsub hk
  · exact fun h k _ => h.imp fun hdisj => hdisj k

/-! ### PACK's check with masks -/

theorem fieldMask_and_eq_zero_iff (f g : Field) :
    fieldMask f &&& fieldMask g = 0 ↔ DisjointFields f g := by
  constructor
  · intro h k
    have hbit := congrArg (Nat.testBit · k) h
    simpa [Nat.testBit_and, fieldMask_testBit] using hbit
  · intro h
    refine Nat.eq_of_testBit_eq fun k => ?_
    simpa [Nat.testBit_and, fieldMask_testBit] using h k

theorem someOverlap_eq_false_iff (fields : List Field) :
    someOverlap fields = false ↔ fields.Pairwise DisjointFields := by
  induction fields with
  | nil => simp [someOverlap]
  | cons f fs ih => simp [someOverlap, ih, fieldMask_and_eq_zero_iff]

/-- The masks of fields in range make up the whole byte exactly when the fields cover it. -/
theorem maskUnion_eq_iff {fields : List Field} (hrange : fieldsInRange fields = true) :
    maskUnion fields = 0xFF ↔ fieldsCover fields = true := by
  have hfull : ∀ k, Nat.testBit 0xFF k = decide (k < 8) := Nat.testBit_two_pow_sub_one 8
  rw [fieldsCover_iff]
  constructor
  · intro h k hk
    have hbit := congrArg (Nat.testBit · k) h
    simpa [maskUnion_testBit, hfull, hk] using hbit
  · intro h
    refine Nat.eq_of_testBit_eq fun k => ?_
    rw [maskUnion_testBit, hfull, Bool.eq_iff_iff, List.any_eq_true, decide_eq_true_iff]
    exact ⟨fun ⟨f, hf, hk⟩ => hasBit_lt_eight hrange hf hk, h k⟩

theorem any_bad_range (fields : List Field) :
    (fields.any fun f => f.width == 0 || decide (8 < f.off + f.width)) = !fieldsInRange fields := by
  rw [fieldsInRange, List.not_all_eq_any_not]
  congr 1
  funext f
  rw [Bool.eq_iff_iff]
  simp [rangeOk]

theorem any_bad_value (fields : List Field) :
    (fields.any fun f => decide (2 ^ f.width ≤ f.value)) = !fieldsFit fields := by
  rw [fieldsFit, List.not_all_eq_any_not]
  congr 1
  funext f
  rw [Bool.eq_iff_iff]
  simp

/-- PACK's check finds the first of R77's reasons that holds, each said bit by bit. -/
theorem packRefusal_eq (fields : List Field) :
    packRefusal fields =
      if fieldsInRange fields = false then some .packRange
      else if fieldsDisjoint fields = false then some .packOverlap
      else if fieldsCover fields = false then some .packCover
      else if fieldsFit fields = false then some .packValue
      else none := by
  unfold packRefusal
  rw [any_bad_range, any_bad_value]
  cases hrange : fieldsInRange fields with
  | false => rfl
  | true =>
    have hoverlap : someOverlap fields = true ↔ fieldsDisjoint fields = false := by
      rw [← Bool.not_eq_false, someOverlap_eq_false_iff, ← fieldsDisjoint_iff hrange,
        Bool.not_eq_true]
    have hcover : (maskUnion fields != 0xFF) = true ↔ fieldsCover fields = false := by
      rw [bne_iff_ne, ne_eq, maskUnion_eq_iff hrange, Bool.not_eq_true]
    simp [hoverlap, hcover]

/-- The parts of PACK's well-formedness, by name. -/
theorem packWellFormed_iff {fields : List Field} :
    packWellFormed fields = true ↔
      fieldsInRange fields = true ∧ fieldsDisjoint fields = true ∧ fieldsCover fields = true ∧
        fieldsFit fields = true := by
  simp [packWellFormed, and_assoc]

/-- PACK is refused by nothing exactly where its fields are well-formed (40_bitfield_codec.md
R77). -/
theorem packRefusal_eq_none_iff (fields : List Field) :
    packRefusal fields = none ↔ packWellFormed fields = true := by
  rw [packRefusal_eq, packWellFormed_iff]
  split_ifs <;> simp_all

/-- PACK is refused by the first of R77's reasons that holds (40_bitfield_codec.md R77). -/
theorem packRefusal_eq_some_iff (fields : List Field) (r : Refusal) :
    packRefusal fields = some r ↔
      (r = .packRange ∧ fieldsInRange fields = false) ∨
      (r = .packOverlap ∧ fieldsInRange fields = true ∧ fieldsDisjoint fields = false) ∨
      (r = .packCover ∧ fieldsInRange fields = true ∧ fieldsDisjoint fields = true ∧
        fieldsCover fields = false) ∨
      (r = .packValue ∧ fieldsInRange fields = true ∧ fieldsDisjoint fields = true ∧
        fieldsCover fields = true ∧ fieldsFit fields = false) := by
  rw [packRefusal_eq]
  split_ifs <;> simp_all <;> exact eq_comm

theorem exec_pack_of_wellFormed (s : State) {fields : List Field}
    (h : packWellFormed fields = true) :
    exec (.pack fields) s =
      .next (s.commit s.regs { s.undefinedOut with rbyte := packByte fields }) := by
  rw [exec_pack, (packRefusal_eq_none_iff fields).mpr h, unlessRefused_none]

theorem exec_unpack_of_range (s : State) (b : Byte) {off width : Nat}
    (h : 1 ≤ width ∧ off + width ≤ 8) :
    exec (.unpack b off width) s =
      .next (s.commit s.regs { s.undefinedOut with rbyte := unpackByte b off width }) := by
  rw [exec_unpack, (unpackRefusal_eq_none off width).mpr h, unlessRefused_none]

/-! ### The packed byte -/

/-- The bit of a well-formed packed byte that a field covers is the field's own: no other entry has
it (40_bitfield_codec.md R78). -/
theorem packByte_getLsbD_of_hasBit {fields : List Field} (h : packWellFormed fields = true)
    {f : Field} (hf : f ∈ fields) {k : Nat} (hk : f.hasBit k = true) :
    (packByte fields).getLsbD k = f.value.testBit (k - f.off) := by
  obtain ⟨hrange, hdisj, -, hfit⟩ := packWellFormed_iff.mp h
  have hbit : ∀ g ∈ fields, (g.value <<< g.off).testBit k =
      (g.hasBit k && g.value.testBit (k - g.off)) := fun g hg =>
    shifted_testBit g (fieldsFit_iff.mp hfit g hg) k
  have hown : ∀ g ∈ fields, g.hasBit k = true → g = f := by
    intro g hg hgk
    by_contra hne
    have : Std.Symm DisjointFields := ⟨fun _ _ => DisjointFields.symm⟩
    exact ((fieldsDisjoint_iff hrange).mp hdisj).forall hg hf hne k ⟨hgk, hk⟩
  rw [packByte_getLsbD, decide_eq_true (hasBit_lt_eight hrange hf hk), Bool.true_and,
    Bool.eq_iff_iff, List.any_eq_true]
  constructor
  · rintro ⟨g, hg, hgk⟩
    obtain ⟨hgk, hval⟩ := Bool.and_eq_true_iff.mp (hbit g hg ▸ hgk)
    exact hown g hg hgk ▸ hval
  · intro hval
    exact ⟨f, hf, by rw [hbit f hf, hk, hval, Bool.true_and]⟩

/-- Settles O16. -/
theorem packPlacesEveryField : Obligations.PackPlacesEveryField := by
  intro s fields h
  refine ⟨_, exec_pack_of_wellFormed s h, State.commit_regs .., State.commit_host .., ?_⟩
  intro f hf k hk
  have hbit : f.hasBit (f.off + k) = true := hasBit_iff.mpr (by omega)
  rw [State.commit_out, packByte_getLsbD_of_hasBit h hf hbit, Nat.add_sub_cancel_left]

/-- The order of the fields does not matter to PACK's byte. -/
theorem packByte_perm {fields fields' : List Field} (h : fields.Perm fields') :
    packByte fields = packByte fields' :=
  BitVec.eq_of_getLsbD_eq fun k _ => by
    rw [packByte_getLsbD, packByte_getLsbD, h.any_eq]

theorem packWellFormed_perm {fields fields' : List Field} (h : fields.Perm fields') :
    packWellFormed fields = packWellFormed fields' := by
  simp only [packWellFormed, fieldsInRange, fieldsDisjoint, fieldsCover, fieldsFit, h.all_eq,
    h.any_eq, h.countP_eq]

/-- Settles O17. -/
theorem packIgnoresFieldOrder : Obligations.PackIgnoresFieldOrder := by
  intro s fields fields' hperm h
  exact ⟨_, _, exec_pack_of_wellFormed s h,
    exec_pack_of_wellFormed s (packWellFormed_perm hperm ▸ h), packByte_perm hperm⟩

theorem unpackRefusal_eq_some_iff {off width : Nat} {r : Refusal} :
    unpackRefusal off width = some r ↔
      r = .unpackRange ∧ ¬ (1 ≤ width ∧ off + width ≤ 8) := by
  rw [← unpackRefusal_eq_none]
  constructor
  · intro h
    exact ⟨unpackRefusal_eq_some h, by simp [h]⟩
  · rintro ⟨rfl, hsome⟩
    obtain ⟨r, hr⟩ := Option.ne_none_iff_exists'.mp hsome
    rw [hr, unpackRefusal_eq_some hr]

/-- Settles O18: UNPACK's check splits at the range, and its value is the range's number. -/
theorem unpackExtractsUnsignedRange : Obligations.UnpackExtractsUnsignedRange := by
  intro s b off width
  refine ⟨rfl, ?_⟩
  split
  next h =>
    exact ⟨_, exec_unpack_of_range s b h, State.commit_regs .., State.commit_host ..,
      unpackByte_toNat b off width h.2⟩
  next h =>
    rw [exec_unpack, unpackRefusal_eq_some_iff.mpr ⟨rfl, h⟩, unlessRefused_some]

/-- UNPACK's value, bit by bit. -/
theorem unpackByte_toNat_testBit (b : Byte) {off width : Nat} (h : off + width ≤ 8) (k : Nat) :
    (unpackByte b off width).toNat.testBit k = (decide (k < width) && b.getLsbD (off + k)) := by
  rw [unpackByte_toNat b off width h, Nat.testBit_mod_two_pow, Nat.testBit_div_two_pow, add_comm,
    BitVec.testBit_toNat]

/-- UNPACK reads back what PACK wrote at a field's range (40_bitfield_codec.md R82). -/
theorem unpackByte_packByte {fields : List Field} (h : packWellFormed fields = true) {f : Field}
    (hf : f ∈ fields) : (unpackByte (packByte fields) f.off f.width).toNat = f.value := by
  obtain ⟨hrange, -, -, hfit⟩ := packWellFormed_iff.mp h
  have hlt := fieldsFit_iff.mp hfit f hf
  refine Nat.eq_of_testBit_eq fun k => ?_
  rw [unpackByte_toNat_testBit _ (fieldsInRange_iff.mp hrange f hf).2]
  by_cases hk : k < f.width
  · have hbit : f.hasBit (f.off + k) = true := hasBit_iff.mpr (by omega)
    rw [packByte_getLsbD_of_hasBit h hf hbit, Nat.add_sub_cancel_left, decide_eq_true hk,
      Bool.true_and]
  · have hpow : f.value < 2 ^ k := hlt.trans_le (Nat.pow_le_pow_right (by norm_num) (by omega))
    rw [decide_eq_false hk, Bool.false_and, Nat.testBit_lt_two_pow hpow]

/-- Settles O19. -/
theorem unpackInvertsPack : Obligations.UnpackInvertsPack := by
  intro s fields f h hf
  have hrange := fieldsInRange_iff.mp (packWellFormed_iff.mp h).1 f hf
  exact ⟨_, _, exec_pack_of_wellFormed s h, exec_unpack_of_range _ _ hrange,
    unpackByte_packByte h hf⟩

/-- A field at each of the ranges, with the value that the range is given. -/
def fieldsAt (ranges : List BitRange) (value : BitRange → Nat) : List Field :=
  ranges.map fun r => ⟨r.off, r.width, value r⟩

/-- What PACK asks of the ranges does not depend on the values. -/
theorem packWellFormed_fieldsAt {ranges : List BitRange} {value : BitRange → Nat}
    (value' : BitRange → Nat) (h : packWellFormed (fieldsAt ranges value) = true)
    (hfit : ∀ r ∈ ranges, r.off + r.width ≤ 8 → value' r < 2 ^ r.width) :
    packWellFormed (fieldsAt ranges value') = true := by
  obtain ⟨hrange, hdisj, hcover, -⟩ := packWellFormed_iff.mp h
  have hrange' : fieldsInRange (fieldsAt ranges value') = true := by
    simpa only [fieldsInRange, fieldsAt, List.all_map, Function.comp_def] using hrange
  refine packWellFormed_iff.mpr ⟨hrange', ?_, ?_, fieldsFit_iff.mpr ?_⟩
  · simpa only [fieldsDisjoint, fieldsAt, List.countP_map, Function.comp_def, Field.hasBit]
      using hdisj
  · simpa only [fieldsCover, fieldsAt, List.any_map, Function.comp_def, Field.hasBit] using hcover
  · rintro f hf
    obtain ⟨r, hr, rfl⟩ := List.mem_map.mp hf
    exact hfit r hr (fieldsInRange_iff.mp hrange' _ hf).2

/-- PACK of the fields UNPACK reads from a byte is that byte (40_bitfield_codec.md R83). -/
theorem packByte_unpackedFields (b : Byte) {ranges : List BitRange}
    (h : packWellFormed (unpackedFields b ranges) = true) :
    packByte (unpackedFields b ranges) = b := by
  obtain ⟨hrange, -, hcover, -⟩ := packWellFormed_iff.mp h
  refine BitVec.eq_of_getLsbD_eq fun k hk => ?_
  obtain ⟨f, hf, hbit⟩ := fieldsCover_iff.mp hcover k hk
  rw [packByte_getLsbD_of_hasBit h hf hbit]
  have hinside := (fieldsInRange_iff.mp hrange f hf).2
  obtain ⟨hlo, hhi⟩ := hasBit_iff.mp hbit
  obtain ⟨r, -, rfl⟩ := List.mem_map.mp hf
  rw [unpackByte_toNat_testBit b hinside, Nat.add_sub_cancel' hlo,
    decide_eq_true (Nat.sub_lt_left_of_lt_add hlo hhi), Bool.true_and]

/-- Settles O20: the ranges pass PACK's check with any values, so with those UNPACK reads. -/
theorem packInvertsUnpack : Obligations.PackInvertsUnpack := by
  intro s b ranges h
  have hunpacked : packWellFormed (unpackedFields b ranges) = true :=
    packWellFormed_fieldsAt _ h fun r _ hr => by
      rw [unpackByte_toNat b r.off r.width hr]
      exact Nat.mod_lt _ (Nat.two_pow_pos _)
  exact ⟨_, exec_pack_of_wellFormed s hunpacked, packByte_unpackedFields b hunpacked⟩

/-! ### The fields BUILD packs -/

/-- A value that ESTOP forces to 0 still fits. -/
theorem estop_gate_lt {e : Bool} {v b : Nat} (h : v < b) : (if e then 0 else v) < b := by
  split <;> omega

theorem headerFields_wellFormed (cfg : Config) (r : RegsOf cfg.nbtn) :
    packWellFormed (headerFields cfg r) = true := by
  refine packWellFormed_iff.mpr ⟨rfl, rfl, rfl, fieldsFit_iff.mpr ?_⟩
  simp only [headerFields, List.forall_mem_cons]
  exact ⟨Nat.lt_succ_of_le (Nat.sub_le ..), cfg.datatypeCode.isLt, r.ts.isLt, Nat.two_pow_pos _,
    List.forall_mem_nil _⟩

theorem firingFields_wellFormed {n : Nat} (r : RegsOf n) :
    packWellFormed (firingFields r) = true := by
  refine packWellFormed_iff.mpr ⟨rfl, rfl, rfl, fieldsFit_iff.mpr ?_⟩
  simp only [firingFields, List.forall_mem_cons]
  exact ⟨estop_gate_lt r.wheel.isLt, r.fire.isLt, estop_gate_lt r.taimatu.isLt,
    estop_gate_lt r.hand.toNat_lt, r.angle.toNat_lt, List.forall_mem_nil _⟩

theorem opt2Fields_wellFormed {n : Nat} (r : RegsOf n) : packWellFormed (opt2Fields r) = true := by
  refine packWellFormed_iff.mpr ⟨rfl, rfl, rfl, fieldsFit_iff.mpr ?_⟩
  simp only [opt2Fields, List.forall_mem_cons]
  exact ⟨r.speed.toNat_lt, r.mg.isLt, Nat.two_pow_pos _, List.forall_mem_nil _⟩

/-- Settles O21. -/
theorem buildPacksAreNeverRefused : Obligations.BuildPacksAreNeverRefused := by
  intro cfg r fields hfields
  have hwf : packWellFormed fields = true := by
    rcases hfields with rfl | rfl | rfl
    · exact headerFields_wellFormed cfg r
    · exact firingFields_wellFormed r
    · exact opt2Fields_wellFormed r
  exact ⟨hwf, (packRefusal_eq_none_iff fields).mpr hwf⟩

/-! ### The table of reasons -/

/-- The reason that a command's own check gives, once its operands are typed. -/
def operandRefusal : Instr → Option Refusal
  | .pack fields => packRefusal fields
  | .unpack _ off width => unpackRefusal off width
  | _ => none

/-- The reason for which a command on the port is refused, by the decoder or by its own check. -/
def commandRefusal (c : Command) : Option Refusal :=
  match decode c with
  | .error e => some (refusalOf e)
  | .ok i => operandRefusal i

/-- Every command is its own check, and then a next state. -/
theorem exec_eq_unlessRefused (i : Instr) (s : State) :
    ∃ t, exec i s = unlessRefused (operandRefusal i) t := by
  cases i with
  | pack fields => exact ⟨_, exec_pack s fields⟩
  | unpack b off width => exact ⟨_, exec_unpack s b off width⟩
  | decode w =>
    cases h : decodeWire w with
    | error e => exact ⟨_, exec_decode_error s h⟩
    | ok f => exact ⟨_, exec_decode_ok s h⟩
  | selfcheck w =>
    cases h : decodeWire w with
    | error e => exact ⟨_, exec_selfcheck_error s h⟩
    | ok f => exact ⟨_, exec_selfcheck_ok s h⟩
  | _ => exact ⟨_, rfl⟩

/-- Every step that takes a command is the command's check, and then a next state. -/
theorem step_eq_unlessRefused {s : State} {c : Command} {rest : List Command}
    (h : s.host = c :: rest) : ∃ t, step s = unlessRefused (commandRefusal c) t := by
  cases hd : decode c with
  | error e => exact ⟨s, by simp [step, fetch_rejected h hd, commandRefusal, hd]⟩
  | ok i =>
    obtain ⟨t, ht⟩ := exec_eq_unlessRefused i (s.taken rest)
    exact ⟨t, by simpa [step, fetch_command h hd, commandRefusal, hd] using ht⟩

theorem commandRefusal_of_ok {c : Command} {i : Instr} (h : decode c = .ok i) :
    commandRefusal c = operandRefusal i := by
  simp only [commandRefusal, h]

theorem commandRefusal_of_error {c : Command} {e : Reject} (h : decode c = .error e) :
    commandRefusal c = some (refusalOf e) := by
  simp only [commandRefusal, h]

/-- A command with one typed port is refused by that port's name where the port refuses, and else by
the command's own check. -/
theorem commandRefusal_of_typed {α : Type} {c : Command} {x : Except Reject α} {f : α → Instr}
    {port : Port} {bad : Prop} {check : Option Refusal} (hdec : decode c = x.map f)
    (hport : ∀ e, x = .error e ↔ bad ∧ e = .operandType port)
    (hcheck : ∀ a, operandRefusal (f a) = check) (r : Refusal) :
    commandRefusal c = some r ↔ (r = .operandType port ∧ bad) ∨ (¬ bad ∧ check = some r) := by
  cases x with
  | error e =>
    obtain ⟨hbad, rfl⟩ := (hport e).mp rfl
    rw [commandRefusal_of_error hdec, Option.some_inj]
    simp [refusalOf, hbad, eq_comm]
  | ok a =>
    have hgood : ¬ bad := fun hbad => nomatch (hport _).mpr ⟨hbad, rfl⟩
    rw [commandRefusal_of_ok hdec, hcheck]
    simp [hgood]

/-- The table of reasons as one formula, a disjunct for each of its rows (60_exceptions.md R178). -/
theorem refusedBecause_iff (c : Command) (r : Refusal) :
    RefusedBecause c r ↔
      (r = .illegalOp c.op ∧ 0xA ≤ c.op.toNat) ∨
      (r = .operandType .ubyte ∧ c.op = 0x2 ∧ 256 ≤ c.ports.ubyte) ∨
      (r = .operandType .crcIn ∧ c.op = 0x3 ∧ ¬ AreBytes 6 c.ports.crcIn) ∨
      (r = .operandType .btn ∧ (c.op = 0x4 ∨ c.op = 0x9) ∧ 4096 ≤ c.ports.btn) ∨
      (r = .operandType .frameIn ∧ c.op = 0x6 ∧ ¬ AreBytes 7 c.ports.frameIn) ∨
      (r = .operandType .wireIn ∧ (c.op = 0x7 ∨ c.op = 0x8) ∧ ∃ v ∈ c.ports.wireIn, 256 ≤ v) ∨
      (c.op = 0x1 ∧ packRefusal c.ports.fields = some r) ∨
      (r = .unpackRange ∧ c.op = 0x2 ∧ c.ports.ubyte < 256 ∧
        ¬ (1 ≤ c.ports.uwidth ∧ c.ports.uoff + c.ports.uwidth ≤ 8)) := by
  rw [packRefusal_eq_some_iff]
  cases r with
  | operandType port => cases port <;> simp [RefusedBecause]
  | _ => simp [RefusedBecause]

/-- The check of a command finds the reasons of the table, and no others. -/
theorem commandRefusal_eq_some_iff (c : Command) (r : Refusal) :
    commandRefusal c = some r ↔ RefusedBecause c r := by
  obtain ⟨op, p⟩ := c
  rw [refusedBecause_iff]
  rcases op_cases op with rfl | rfl | rfl | rfl | rfl | rfl | rfl | rfl | rfl | rfl | hres
  · rw [commandRefusal_of_ok (decode_op_reset p)]
    simp [operandRefusal]
  · rw [commandRefusal_of_ok (decode_op_pack p)]
    simp [operandRefusal]
  · rw [commandRefusal_of_typed (check := unpackRefusal p.uoff p.uwidth) (decode_op_unpack p)
      (fun _ => typedWord_eq_error_iff) fun _ => rfl, unpackRefusal_eq_some_iff]
    simp [and_left_comm]
  · rw [commandRefusal_of_typed (decode_op_crc p) (fun _ => typedCrcIn_eq_error_iff) fun _ => rfl]
    simp
  · rw [commandRefusal_of_typed (decode_op_advance p) (fun _ => typedWord_eq_error_iff)
      fun _ => rfl]
    simp [hw_nbtn]
  · rw [commandRefusal_of_ok (decode_op_build p)]
    simp [operandRefusal]
  · rw [commandRefusal_of_typed (decode_op_encode p) (fun _ => typedFrameIn_eq_error_iff)
      fun _ => rfl]
    simp
  · rw [commandRefusal_of_typed (decode_op_decode p) (fun _ => typedBytes_eq_error_iff)
      fun _ => rfl]
    simp
  · rw [commandRefusal_of_typed (decode_op_selfcheck p) (fun _ => typedBytes_eq_error_iff)
      fun _ => rfl]
    simp
  · rw [commandRefusal_of_typed (decode_op_tick p) (fun _ => typedWord_eq_error_iff) fun _ => rfl]
    simp [hw_nbtn]
  · rw [commandRefusal_of_error (decode_op_reserved p hres), Option.some_inj]
    constructor
    · rintro rfl
      exact .inl ⟨rfl, hres⟩
    · rintro (⟨rfl, -⟩ | ⟨-, rfl, -⟩ | ⟨-, rfl, -⟩ | ⟨-, rfl | rfl, -⟩ | ⟨-, rfl, -⟩ |
        ⟨-, rfl | rfl, -⟩ | ⟨rfl, -⟩ | ⟨-, rfl, -⟩)
      · rfl
      all_goals exact absurd hres (by decide)

/-- Settles O4: a step that takes a command is the command's check and then a next state, and the
check is the table. -/
theorem stepRefusesExactlyTheTableOfReasons : Obligations.StepRefusesExactlyTheTableOfReasons := by
  constructor
  · intro s r
    constructor
    · intro hstep
      cases hhost : s.host with
      | nil =>
        rw [idleStepKeepsState s hhost] at hstep
        cases hstep
      | cons c rest =>
        obtain ⟨t, ht⟩ := step_eq_unlessRefused hhost
        have hcheck := unlessRefused_refused (ht ▸ hstep)
        exact ⟨c, rest, rfl, (commandRefusal_eq_some_iff c r).mp hcheck⟩
    · rintro ⟨c, rest, hhost, hbecause⟩
      obtain ⟨t, ht⟩ := step_eq_unlessRefused hhost
      rw [ht, (commandRefusal_eq_some_iff c r).mpr hbecause, unlessRefused_some]
  · intro s hnone
    cases hhost : s.host with
    | nil => exact ⟨s, idleStepKeepsState s hhost⟩
    | cons c rest =>
      obtain ⟨t, ht⟩ := step_eq_unlessRefused hhost
      have hcheck : commandRefusal c = none := by
        rw [Option.eq_none_iff_forall_ne_some]
        exact fun r hr => hnone c rest r hhost ((commandRefusal_eq_some_iff c r).mp hr)
      exact ⟨t, by rw [ht, hcheck, unlessRefused_none]⟩

end Sys2Proof.Machine
end

section
/-!
PROOFS. The wire codec (44_wire_codec.md): DECODE reads exactly the messages of seven hex pairs
(R146 to R150), ENCODE writes exactly the grammar's strings (R144), the two invert each other (R151,
R152), and SELFCHECK reports the fields it reads (R153, R154).
-/
namespace Sys2Proof.Machine

open Sys2Proof.Claims

/-! ### Characters and tokens -/

theorem isTerminator_iff {ch : Byte} : isTerminator ch = true ↔ IsLineEnd ch := by
  simp [isTerminator, IsLineEnd, carriageReturn, lineFeed]

theorem isTerminator_eq_false_iff {ch : Byte} : isTerminator ch = false ↔ ¬ IsLineEnd ch := by
  rw [← isTerminator_iff, Bool.not_eq_true]

/-- `HEXV` reads exactly the hex digits, of either case. -/
theorem hexValue_eq_some_iff {ch : Byte} {v : Nat} : hexValue ch = some v ↔ IsHexDigit ch v := by
  simp only [hexValue, IsHexDigit]
  split_ifs <;> simp only [Option.some.injEq, false_iff] <;> omega

/-- A token's byte is the one its two hex digits write. -/
theorem tokenByte_eq_some_iff {tok : Wire} {b : Byte} :
    tokenByte tok = some b ↔ TokenWrites tok b := by
  constructor
  · intro h
    unfold tokenByte at h
    split at h
    next hi lo =>
      split at h
      next hv lv hhi hlo =>
        cases h
        have hi16 := hexValue_eq_some_iff.mp hhi
        have lo16 := hexValue_eq_some_iff.mp hlo
        refine ⟨hi, lo, hv, lv, rfl, hi16, lo16, ?_⟩
        simp only [IsHexDigit] at hi16 lo16
        rw [BitVec.toNat_ofNat]
        omega
      next => cases h
    next => cases h
  · rintro ⟨hi, lo, h, l, rfl, hhi, hlo, hb⟩
    simp only [tokenByte, hexValue_eq_some_iff.mpr hhi, hexValue_eq_some_iff.mpr hlo, ← hb,
      BitVec.ofNat_toNat, BitVec.setWidth_eq]

/-- The tokens' bytes are read exactly where every token writes its byte. -/
theorem tokensBytes_eq_ok_iff {k : Nat} {toks : List Wire} {bs : List Byte} :
    tokensBytes k toks = .ok bs ↔ List.Forall₂ TokenWrites toks bs := by
  induction toks generalizing k bs with
  | nil => simp [tokensBytes, eq_comm]
  | cons t ts ih =>
    rw [List.forall₂_cons_left_iff]
    cases hb : tokenByte t with
    | none =>
      have hbad : ∀ b, ¬ TokenWrites t b := fun b h => by
        rw [tokenByte_eq_some_iff.mpr h] at hb
        cases hb
      simp [tokensBytes, hb, hbad]
    | some b =>
      have hown : ∀ b', TokenWrites t b' ↔ b' = b := fun b' => by
        rw [← tokenByte_eq_some_iff, hb, Option.some_inj, eq_comm]
      cases hrest : tokensBytes (k + 1) ts with
      | ok bs' =>
        have hrest' : ∀ u, List.Forall₂ TokenWrites ts u ↔ u = bs' := fun u => by
          rw [← ih (k := k + 1), hrest, Except.ok.injEq, eq_comm]
        simp [tokensBytes, hb, hrest, hown, hrest', eq_comm]
      | error e =>
        have hrest' : ∀ u, ¬ List.Forall₂ TokenWrites ts u := fun u h => by
          rw [ih.mpr h] at hrest
          cases hrest
        simp [tokensBytes, hb, hrest, hrest']

/-- The error names the lowest-indexed token that writes no byte (44_wire_codec.md R149). -/
theorem tokensBytes_eq_badToken {toks : List Wire} {j k : Nat} {tok : Wire}
    (htok : toks[k]? = some tok) (hbad : ∀ b, ¬ TokenWrites tok b)
    (hlow : ∀ i < k, ∀ u, toks[i]? = some u → ∃ b, TokenWrites u b) :
    tokensBytes j toks = .error (.badToken (j + k)) := by
  induction toks generalizing j k with
  | nil => cases htok
  | cons t ts ih =>
    cases k with
    | zero =>
      cases htok
      have hnone : tokenByte tok = none := by
        rw [Option.eq_none_iff_forall_ne_some]
        exact fun b hb => hbad b (tokenByte_eq_some_iff.mp hb)
      simp [tokensBytes, hnone]
    | succ k =>
      obtain ⟨b, hb⟩ := hlow 0 (by omega) t rfl
      have hrest := ih (j := j + 1) (k := k) (by simpa using htok) fun i hi u hu =>
        hlow (i + 1) (by omega) u (by simpa using hu)
      simp only [tokensBytes, tokenByte_eq_some_iff.mpr hb, hrest]
      congr 2
      omega

/-! ### Splitting and joining -/

theorem splitCommas_comma (rest : Wire) : splitCommas (comma :: rest) = [] :: splitCommas rest := by
  simp [splitCommas]

/-- A character other than a comma joins the first token of the rest. -/
theorem splitCommas_cons_of_ne {ch : Byte} (h : ch ≠ comma) (rest : Wire) :
    ∃ t ts, splitCommas rest = t :: ts ∧ splitCommas (ch :: rest) = (ch :: t) :: ts := by
  cases hs : splitCommas rest with
  | nil => exact absurd hs (splitCommas_ne_nil rest)
  | cons t ts => exact ⟨t, ts, rfl, by simp [splitCommas, h, hs]⟩

theorem joinCommas_cons (t : Wire) {ts : List Wire} (h : ts ≠ []) :
    joinCommas (t :: ts) = t ++ comma :: joinCommas ts := by
  cases ts with
  | nil => exact absurd rfl h
  | cons u us => rfl

theorem joinCommas_cons_cons (ch : Byte) (t : Wire) (ts : List Wire) :
    joinCommas ((ch :: t) :: ts) = ch :: joinCommas (t :: ts) := by
  cases ts <;> rfl

/-- Joining the tokens gives the message back. -/
theorem joinCommas_splitCommas (w : Wire) : joinCommas (splitCommas w) = w := by
  induction w with
  | nil => rfl
  | cons ch rest ih =>
    by_cases h : ch = comma
    · subst h
      rw [splitCommas_comma, joinCommas_cons _ (splitCommas_ne_nil rest), ih, List.nil_append]
    · obtain ⟨t, ts, hrest, hcons⟩ := splitCommas_cons_of_ne h rest
      rw [hcons, joinCommas_cons_cons, ← hrest, ih]

/-- Splitting joined tokens without commas gives the tokens back. -/
theorem splitCommas_joinCommas {toks : List Wire} (hne : toks ≠ [])
    (hcomma : ∀ tok ∈ toks, comma ∉ tok) : splitCommas (joinCommas toks) = toks := by
  induction toks with
  | nil => exact absurd rfl hne
  | cons t ts ih =>
    obtain ⟨ht, hts⟩ := List.forall_mem_cons.mp hcomma
    by_cases hnil : ts = []
    · subst hnil
      exact splitCommas_of_not_mem t ht
    · rw [joinCommas_cons t hnil, splitCommas_append_comma t _ ht, ih hnil hts]

/-- No token holds a comma. -/
theorem comma_not_mem_of_mem_splitCommas {w tok : Wire} (h : tok ∈ splitCommas w) :
    comma ∉ tok := by
  induction w generalizing tok with
  | nil =>
    obtain rfl : tok = [] := by simpa [splitCommas] using h
    simp
  | cons ch rest ih =>
    by_cases hch : ch = comma
    · subst hch
      rw [splitCommas_comma, List.mem_cons] at h
      rcases h with rfl | h
      · simp
      · exact ih h
    · obtain ⟨t, ts, hrest, hcons⟩ := splitCommas_cons_of_ne hch rest
      rw [hcons, List.mem_cons] at h
      rcases h with rfl | h
      · have ht : comma ∉ t := ih (by simp [hrest])
        simp [ht, Ne.symm hch]
      · exact ih (by simp [hrest, h])

/-- `n` commas give `n + 1` tokens (44_wire_codec.md R146). -/
theorem splitCommas_length (w : Wire) : (splitCommas w).length = w.count comma + 1 := by
  induction w with
  | nil => rfl
  | cons ch rest ih =>
    by_cases hch : ch = comma
    · subst hch
      rw [splitCommas_comma, List.length_cons, ih, List.count_cons_self]
    · obtain ⟨t, ts, hrest, hcons⟩ := splitCommas_cons_of_ne hch rest
      rw [List.count_cons_of_ne hch, ← ih, hcons, hrest]
      rfl

/-- What `strip` takes off, and what it leaves. -/
theorem stripTerminators_spec (w : Wire) :
    ∃ term, w = stripTerminators w ++ term ∧ (∀ ch ∈ term, isTerminator ch = true) ∧
      ∀ ch ∈ (stripTerminators w).getLast?, isTerminator ch = false := by
  refine ⟨(w.reverse.takeWhile isTerminator).reverse, ?_, ?_, ?_⟩
  · rw [stripTerminators, ← List.reverse_append, List.takeWhile_append_dropWhile,
      List.reverse_reverse]
  · intro ch hch
    exact List.mem_takeWhile_imp (List.mem_reverse.mp hch)
  · intro ch hch
    rw [stripTerminators, List.getLast?_reverse] at hch
    have := List.head?_dropWhile_not isTerminator w.reverse
    rw [Option.mem_def.mp hch] at this
    simpa using this

/-- The reading of a message that the statements name is the one the decoder computes. -/
theorem splitsInto_iff {w : Wire} {toks : List Wire} :
    SplitsInto w toks ↔ splitCommas (stripTerminators w) = toks := by
  constructor
  · rintro ⟨term, rfl, hterm, hcomma, hne, hlast⟩
    rw [stripTerminators_append _ _ (fun ch hch => isTerminator_iff.mpr (hterm ch hch))
      fun ch hch => isTerminator_eq_false_iff.mpr (hlast ch hch)]
    exact splitCommas_joinCommas hne hcomma
  · rintro rfl
    obtain ⟨term, hw, hterm, hlast⟩ := stripTerminators_spec w
    refine ⟨term, ?_, fun ch hch => isTerminator_iff.mp (hterm ch hch),
      fun _ => comma_not_mem_of_mem_splitCommas, splitCommas_ne_nil _, ?_⟩
    · rwa [joinCommas_splitCommas]
    · rw [joinCommas_splitCommas]
      exact fun ch hch => isTerminator_eq_false_iff.mp (hlast ch hch)

/-- Stripping line ends takes no comma. -/
theorem stripTerminators_count_comma (w : Wire) :
    (stripTerminators w).count comma = w.count comma := by
  obtain ⟨term, hw, hterm, -⟩ := stripTerminators_spec w
  have hnone : term.count comma = 0 :=
    List.count_eq_zero.mpr fun h => absurd (hterm comma h) (by decide)
  conv_rhs => rw [hw]
  rw [List.count_append, hnone, Nat.add_zero]

/-! ### The decoder -/

theorem frameOfBytes_eq_some_iff {bs : List Byte} {f : Frame} :
    frameOfBytes bs = some f ↔ frameBytes f = bs := by
  constructor
  · intro h
    unfold frameOfBytes at h
    split at h <;> cases h
    rfl
  · rintro rfl
    rfl

/-- Tokens that are not seven are counted before any is read (44_wire_codec.md R148). -/
theorem decodeWire_of_length_ne {w : Wire} {toks : List Wire} (hsplit : SplitsInto w toks)
    (hlen : toks.length ≠ 7) : decodeWire w = .error (.tokenCount toks.length) := by
  rw [decodeWire, splitsInto_iff.mp hsplit]
  exact if_pos hlen

/-- Of seven tokens, the first that is no byte is the answer. -/
theorem decodeWire_of_read_error {w : Wire} {toks : List Wire} {e : FormatError}
    (hsplit : SplitsInto w toks) (hlen : toks.length = 7) (hread : tokensBytes 0 toks = .error e) :
    decodeWire w = .error e := by
  rw [decodeWire, splitsInto_iff.mp hsplit]
  simp [hlen, hread]

/-- Tokens that write a frame's seven bytes are that frame. -/
theorem decodeWire_of_read_ok {w : Wire} {toks : List Wire} {f : Frame} (hsplit : SplitsInto w toks)
    (hread : List.Forall₂ TokenWrites toks (frameBytes f)) : decodeWire w = .ok f := by
  have hlen : toks.length = 7 := hread.length_eq
  rw [decodeWire, splitsInto_iff.mp hsplit]
  simp [hlen, tokensBytes_eq_ok_iff.mpr hread, frameOfBytes_eq_some_iff.mpr rfl]

/-- DECODE accepts exactly seven hex pairs before line ends (44_wire_codec.md R146, R150). -/
theorem decodeWire_eq_ok_iff {w : Wire} {f : Frame} :
    decodeWire w = .ok f ↔
      ∃ toks, SplitsInto w toks ∧ List.Forall₂ TokenWrites toks (frameBytes f) := by
  constructor
  · intro h
    refine ⟨_, splitsInto_iff.mpr rfl, ?_⟩
    simp only [decodeWire] at h
    split at h
    · cases h
    · split at h
      · cases h
      · rename_i bs hbs
        split at h
        · rename_i f' hf'
          cases h
          rw [frameOfBytes_eq_some_iff.mp hf']
          exact tokensBytes_eq_ok_iff.mp hbs
        · cases h
  · rintro ⟨toks, hsplit, hwrites⟩
    exact decodeWire_of_read_ok hsplit hwrites

/-- DECODE completes on every message, writes no register, and its `STATUS` and `FRAME_OUT` tell
what the decoder answered. -/
theorem exec_decode_spec (s : State) (w : Wire) :
    ∃ t, exec (.decode w) s = .next t ∧ t.regs = s.regs ∧ t.host = s.host ∧
      (∀ f, (t.out.status = .ok ∧ t.out.frameOut = f) ↔ decodeWire w = .ok f) ∧
      (∀ e, t.out.status = .formatError e ↔ decodeWire w = .error e) := by
  cases h : decodeWire w with
  | ok f => exact ⟨_, exec_decode_ok s h, by simp⟩
  | error e => exact ⟨_, exec_decode_error s h, by simp⟩

/-- Settles O48. -/
theorem decodeAcceptsExactlySevenHexPairs : Obligations.DecodeAcceptsExactlySevenHexPairs := by
  intro s w
  obtain ⟨t, hexec, hregs, hhost, hok, -⟩ := exec_decode_spec s w
  exact ⟨t, hexec, hregs, hhost, fun f => (hok f).trans decodeWire_eq_ok_iff⟩

/-- Settles O49: a comma more makes a token more. -/
theorem decodeReportsTokenCount : Obligations.DecodeReportsTokenCount := by
  intro s w hcount
  obtain ⟨t, hexec, hregs, hhost, -, herror⟩ := exec_decode_spec s w
  have hlen : (splitCommas (stripTerminators w)).length = w.count comma + 1 := by
    rw [splitCommas_length, stripTerminators_count_comma]
  have hne : (splitCommas (stripTerminators w)).length ≠ 7 := by
    rw [hlen]
    exact fun h => hcount (Nat.succ.inj h)
  have hdec := decodeWire_of_length_ne (splitsInto_iff.mpr rfl) hne
  rw [hlen] at hdec
  exact ⟨t, hexec, (herror _).mpr hdec, hregs, hhost⟩

/-- Settles O50. -/
theorem decodeReportsLowestBadToken : Obligations.DecodeReportsLowestBadToken := by
  intro s w toks k tok hsplit hlen htok hbad hlow
  obtain ⟨t, hexec, hregs, hhost, -, herror⟩ := exec_decode_spec s w
  have hread : tokensBytes 0 toks = .error (.badToken k) := by
    simpa using tokensBytes_eq_badToken (j := 0) htok hbad hlow
  exact ⟨t, hexec, (herror _).mpr (decodeWire_of_read_error hsplit hlen hread), hregs, hhost⟩

/-! ### The encoder's messages -/

/-- A written byte is its own token's byte. -/
theorem tokenWrites_hexPair (b : Byte) : TokenWrites (hexPair b) b :=
  tokenByte_eq_some_iff.mp (tokenByte_hexPair b)

theorem comma_not_mem_hexPair (b : Byte) : comma ∉ hexPair b := by
  have hb := b.isLt
  simp only [hexPair, List.mem_cons, List.not_mem_nil, or_false, not_or]
  exact ⟨(hexLower_ne_comma _ (by omega)).symm, (hexLower_ne_comma _ (by omega)).symm⟩

/-- An encoded frame is seven hex pairs before CR LF. -/
theorem splitsInto_encodeFrame (f : Frame) :
    SplitsInto (encodeFrame f) ((frameBytes f).map hexPair) := by
  refine ⟨[carriageReturn, lineFeed], rfl, ?_, ?_, List.cons_ne_nil _ _, ?_⟩
  · simp [IsLineEnd, carriageReturn, lineFeed]
  · intro tok htok
    obtain ⟨b, -, rfl⟩ := List.mem_map.mp htok
    exact comma_not_mem_hexPair b
  · rintro ch hch
    have hlast : (joinCommas ((frameBytes f).map hexPair)).getLast? =
        some (hexLower (f.crc.toNat % 16)) := rfl
    obtain rfl : hexLower (f.crc.toNat % 16) = ch := by simpa [hlast] using hch
    exact isTerminator_eq_false_iff.mp (hexLower_not_terminator _ (Nat.mod_lt _ (by norm_num)))

/-- The decoder reads every encoded frame back (44_wire_codec.md R151). -/
theorem decodeWire_encodeFrame (f : Frame) : decodeWire (encodeFrame f) = .ok f :=
  decodeWire_eq_ok_iff.mpr ⟨_, splitsInto_encodeFrame f, by
    rw [List.forall₂_map_left_iff, List.forall₂_same]
    exact fun b _ => tokenWrites_hexPair b⟩

theorem encodeFrame_injective {f f' : Frame} (h : encodeFrame f = encodeFrame f') : f = f' := by
  have hdec := decodeWire_encodeFrame f
  rw [h, decodeWire_encodeFrame] at hdec
  exact (Except.ok.inj hdec).symm

/-- Settles O47. -/
theorem decodeInvertsEncode : Obligations.DecodeInvertsEncode := by
  intro s f
  refine ⟨_, _, exec_encode s f, exec_decode_ok _ (decodeWire_encodeFrame f), ?_⟩
  exact ⟨rfl, rfl, rfl, rfl⟩

/-! ### The grammar -/

/-- The lowercase codes are the digits that ENCODE writes. -/
theorem mem_lowerHexCodes_iff {ch : Byte} : ch ∈ lowerHexCodes ↔ ∃ n < 16, hexLower n = ch := by
  constructor
  · intro h
    obtain ⟨n, hn, rfl⟩ := List.mem_iff_getElem.mp h
    have hn16 : n < 16 := hn
    refine ⟨n, hn16, ?_⟩
    have := lowerHexCodes_getElem? hn16
    rw [List.getElem?_eq_getElem hn, Option.some_inj] at this
    exact this.symm
  · rintro ⟨n, hn, rfl⟩
    exact List.mem_of_getElem? (lowerHexCodes_getElem? hn)

/-- A position of a message's first 20 characters is a byte's high digit, its low digit, or the
comma after it. -/
theorem position_cases {j : Nat} (h : j < 20) :
    ∃ k < 7, j = 3 * k ∨ j = 3 * k + 1 ∨ (k < 6 ∧ j = 3 * k + 2) :=
  ⟨j / 3, by omega, by omega⟩

theorem frameRead_of_lt (f : Frame) {k : Nat} (h : k < 7) : ∃ b, frameRead f k = some b :=
  ⟨_, List.getElem?_eq_getElem (l := frameBytes f) h⟩

/-- What ENCODE writes is a string of the grammar (44_wire_codec.md R144). -/
theorem isWireMessage_encodeFrame (f : Frame) : IsWireMessage (encodeFrame f) := by
  refine ⟨encodeFrame_length f, fun j ch hch => ?_⟩
  have hj : j < 22 := by
    have := (List.getElem?_eq_some_iff.mp hch).1
    simpa using this
  rcases (by omega : j < 20 ∨ j = 20 ∨ j = 21) with hj20 | rfl | rfl
  · obtain ⟨k, hk, hpos⟩ := position_cases hj20
    obtain ⟨b, hb⟩ := frameRead_of_lt f hk
    obtain ⟨hhigh, hlow⟩ := encodeFrame_digits hb
    have hlt := b.isLt
    rcases hpos with rfl | rfl | ⟨hk6, rfl⟩
    · obtain rfl := Option.some_inj.mp (hhigh.symm.trans hch)
      exact .inl ⟨hj20, by omega, mem_lowerHexCodes_iff.mpr ⟨_, by omega, rfl⟩⟩
    · obtain rfl := Option.some_inj.mp (hlow.symm.trans hch)
      exact .inl ⟨hj20, by omega, mem_lowerHexCodes_iff.mpr ⟨_, by omega, rfl⟩⟩
    · obtain rfl := Option.some_inj.mp ((encodeFrame_comma f hk6).symm.trans hch)
      exact .inr (.inl ⟨hj20, by omega, rfl⟩)
  · obtain rfl := Option.some_inj.mp ((encodeFrame_carriageReturn f).symm.trans hch)
    exact .inr (.inr (.inl ⟨rfl, rfl⟩))
  · obtain rfl := Option.some_inj.mp ((encodeFrame_lineFeed f).symm.trans hch)
    exact .inr (.inr (.inr ⟨rfl, rfl⟩))

section
variable {w : Wire}

theorem exists_wireChar_of_message (h : IsWireMessage w) {j : Nat} (hj : j < 22) :
    ∃ ch, wireChar w j = some ch :=
  ⟨_, List.getElem?_eq_getElem (h.1.symm ▸ hj)⟩

theorem wireChar_digit_of_message (h : IsWireMessage w) {j : Nat} (hj : j < 20) (h3 : j % 3 ≠ 2) :
    ∃ n < 16, wireChar w j = some (hexLower n) := by
  obtain ⟨ch, hch⟩ := exists_wireChar_of_message h (j := j) (by omega)
  rcases h.2 j ch hch with ⟨-, -, hmem⟩ | ⟨-, h2, -⟩ | ⟨rfl, -⟩ | ⟨rfl, -⟩
  · obtain ⟨n, hn, rfl⟩ := mem_lowerHexCodes_iff.mp hmem
    exact ⟨n, hn, hch⟩
  all_goals omega

theorem wireChar_comma_of_message (h : IsWireMessage w) {k : Nat} (hk : k < 6) :
    wireChar w (3 * k + 2) = some comma := by
  obtain ⟨ch, hch⟩ := exists_wireChar_of_message h (j := 3 * k + 2) (by omega)
  rcases h.2 _ ch hch with ⟨-, h2, -⟩ | ⟨-, -, rfl⟩ | ⟨hj, -⟩ | ⟨hj, -⟩
  · omega
  · exact hch
  all_goals omega

theorem wireChar_carriageReturn_of_message (h : IsWireMessage w) :
    wireChar w 20 = some carriageReturn := by
  obtain ⟨ch, hch⟩ := exists_wireChar_of_message h (j := 20) (by omega)
  rcases h.2 _ ch hch with ⟨hj, -⟩ | ⟨hj, -⟩ | ⟨-, rfl⟩ | ⟨hj, -⟩
  case inr.inr.inl => exact hch
  all_goals omega

theorem wireChar_lineFeed_of_message (h : IsWireMessage w) : wireChar w 21 = some lineFeed := by
  obtain ⟨ch, hch⟩ := exists_wireChar_of_message h (j := 21) (by omega)
  rcases h.2 _ ch hch with ⟨hj, -⟩ | ⟨hj, -⟩ | ⟨hj, -⟩ | ⟨-, rfl⟩
  case inr.inr.inr => exact hch
  all_goals omega

/-- The two digits at a byte's place in a string of the grammar write a byte. -/
theorem exists_byte_of_message (h : IsWireMessage w) {k : Nat} (hk : k < 7) :
    ∃ b : Byte, wireChar w (3 * k) = some (hexLower (b.toNat / 16)) ∧
      wireChar w (3 * k + 1) = some (hexLower (b.toNat % 16)) := by
  obtain ⟨m, hm, hhigh⟩ := wireChar_digit_of_message h (j := 3 * k) (by omega) (by omega)
  obtain ⟨n, hn, hlow⟩ := wireChar_digit_of_message h (j := 3 * k + 1) (by omega) (by omega)
  have hb : (BitVec.ofNat 8 (16 * m + n)).toNat = 16 * m + n := by
    rw [BitVec.toNat_ofNat]
    omega
  refine ⟨BitVec.ofNat 8 (16 * m + n), ?_, ?_⟩
  · rw [hb, hhigh, show (16 * m + n) / 16 = m by omega]
  · rw [hb, hlow, show (16 * m + n) % 16 = n by omega]

/-- Every string of the grammar is what ENCODE writes of the frame of its seven bytes. -/
theorem exists_encodeFrame_of_message (h : IsWireMessage w) : ∃ f, encodeFrame f = w := by
  have hbytes : ∀ k : Fin 7, ∃ b : Byte, wireChar w (3 * k) = some (hexLower (b.toNat / 16)) ∧
      wireChar w (3 * k + 1) = some (hexLower (b.toNat % 16)) := fun k =>
    exists_byte_of_message h k.isLt
  choose b hb using hbytes
  obtain ⟨f, hf⟩ := exists_frameBytes_eq (List.length_ofFn (f := b))
  have hread : ∀ k : Fin 7, frameRead f k = some (b k) := by
    intro k
    rw [frameRead, hf, List.getElem?_ofFn, dif_pos k.isLt]
  refine ⟨f, List.ext_getElem? fun j => ?_⟩
  change wireChar (encodeFrame f) j = wireChar w j
  rcases (by omega : j < 20 ∨ j = 20 ∨ j = 21 ∨ 22 ≤ j) with hj | rfl | rfl | hj
  · obtain ⟨k, hk, hpos⟩ := position_cases hj
    obtain ⟨hhigh, hlow⟩ := encodeFrame_digits (hread ⟨k, hk⟩)
    rcases hpos with rfl | rfl | ⟨hk6, rfl⟩
    · exact hhigh.trans (hb ⟨k, hk⟩).1.symm
    · exact hlow.trans (hb ⟨k, hk⟩).2.symm
    · exact (encodeFrame_comma f hk6).trans (wireChar_comma_of_message h hk6).symm
  · rw [encodeFrame_carriageReturn, wireChar_carriageReturn_of_message h]
  · rw [encodeFrame_lineFeed, wireChar_lineFeed_of_message h]
  · have hlen := encodeFrame_length f
    rw [wireChar, wireChar, List.getElem?_eq_none (by simpa using hj),
      List.getElem?_eq_none (h.1.symm ▸ hj)]

end

theorem isWireMessage_iff (w : Wire) : IsWireMessage w ↔ ∃ f : Frame, encodeFrame f = w :=
  ⟨exists_encodeFrame_of_message, fun ⟨f, hf⟩ => hf ▸ isWireMessage_encodeFrame f⟩

/-- Settles O46. -/
theorem encodeIsInjectiveOntoTheGrammar : Obligations.EncodeIsInjectiveOntoTheGrammar :=
  ⟨fun _ _ => encodeFrame_injective, isWireMessage_iff⟩

/-- Settles O51: a string of the grammar is some frame's encoding, and DECODE gives that frame. -/
theorem encodeOfDecodeIsCanonical : Obligations.EncodeOfDecodeIsCanonical := by
  intro s t w hexec hstatus
  obtain ⟨t', hexec', -, -, hok, -⟩ := exec_decode_spec s w
  obtain rfl : t' = t := Host.Outcome.next.inj (hexec'.symm.trans hexec)
  have hdec : decodeWire w = .ok t'.out.frameOut := (hok _).mp ⟨hstatus, rfl⟩
  refine ⟨⟨fun h => h ▸ isWireMessage_encodeFrame _, fun h => ?_⟩, isWireMessage_encodeFrame _⟩
  obtain ⟨f, rfl⟩ := exists_encodeFrame_of_message h
  rw [decodeWire_encodeFrame] at hdec
  rw [← Except.ok.inj hdec]

/-! ### SELFCHECK -/

/-- Settles O52: both commands branch on the one answer of the decoder. -/
theorem selfcheckIsDecodeAndCrc : Obligations.SelfcheckIsDecodeAndCrc := by
  intro s w
  cases h : decodeWire w with
  | ok f =>
    refine ⟨_, _, exec_selfcheck_ok s h, exec_decode_ok s h, rfl, rfl, rfl, fun _ => ?_⟩
    exact ⟨rfl, rfl, rfl, rfl, crcOkFlag_iff Config.hw f⟩
  | error e =>
    refine ⟨_, _, exec_selfcheck_error s h, exec_decode_error s h, rfl, rfl, rfl, fun hok => ?_⟩
    simp at hok

/-- A named field of a byte is its bits as a number. -/
theorem extract_toNat (r : BitRange) (b : Byte) (h : r.off + r.width ≤ 8) :
    (extract r.width r b).toNat = b.toNat / 2 ^ r.off % 2 ^ r.width := by
  rw [extract, BitVec.toNat_setWidth, unpackByte_toNat b _ _ h, Nat.mod_mod]

theorem bitNat_bne_zero {b : Byte} (h : b.toNat < 2) : bitNat (b != 0) = b.toNat := by
  obtain h0 | h1 : b.toNat = 0 ∨ b.toNat = 1 := by omega
  · rw [BitVec.eq_of_toNat_eq (y := 0) h0]
    rfl
  · rw [BitVec.eq_of_toNat_eq (y := 1) h1]
    rfl

theorem bitNat_not (b : Bool) : bitNat (!b) = 1 - bitNat b := by cases b <;> rfl

/-- A named 1-bit field of a byte is its bit as a number. -/
theorem bitNat_extractBit {r : BitRange} (b : Byte) (h : r.off < 8) (hr : r.width = 1) :
    bitNat (extractBit r b) = b.toNat / 2 ^ r.off % 2 := by
  have hval : (unpackByte b r.off r.width).toNat = b.toNat / 2 ^ r.off % 2 := by
    rw [unpackByte_toNat b r.off r.width (by omega), hr, pow_one]
  rw [extractBit, bitNat_bne_zero (hval ▸ Nat.mod_lt _ (by norm_num)), hval]

/-- A field at the top of a byte needs no remainder. -/
theorem div_mod_top (b : Byte) {m n : Nat} (h : m * n = 256) : b.toNat / m % n = b.toNat / m :=
  Nat.mod_eq_of_lt (Nat.div_lt_of_lt_mul (h ▸ b.isLt))

/-- Settles O53: field by field of `UNPACK_ALL`. -/
theorem selfcheckReportsEveryField : Obligations.SelfcheckReportsEveryField := by
  intro s t w hexec hstatus
  cases h : decodeWire w with
  | error e =>
    rw [exec_selfcheck_error s h] at hexec
    cases hexec
    simp at hstatus
  | ok f =>
    rw [exec_selfcheck_ok s h] at hexec
    cases hexec
    refine ⟨⟨?_, ?_, ?_, ?_⟩, ⟨s8_eq_toInt _, s8_eq_toInt _, s8_eq_toInt _⟩,
      ⟨?_, ?_, ?_, ?_, ?_⟩, ?_, ?_, ?_⟩
    · exact (bitNat_not _).trans (congrArg (1 - ·)
        ((bitNat_extractBit f.header (by decide) rfl).trans (div_mod_top _ rfl)))
    · exact extract_toNat hdrDatatype f.header (by decide)
    · exact extract_toNat hdrTs f.header (by decide)
    · exact (extract_toNat hdrNodef f.header (by decide)).trans (by simp [hdrNodef])
    · exact (extract_toNat firWheel f.firing (by decide)).trans (div_mod_top _ rfl)
    · exact extract_toNat firFire f.firing (by decide)
    · exact extract_toNat firTaimatu f.firing (by decide)
    · exact bitNat_extractBit f.firing (by decide) rfl
    · exact (bitNat_extractBit f.firing (by decide) rfl).trans (by simp [firAngle])
    · exact (bitNat_extractBit f.opt2 (by decide) rfl).trans (div_mod_top _ rfl)
    · exact extract_toNat optMg f.opt2 (by decide)
    · exact (extract_toNat optZero f.opt2 (by decide)).trans (by simp [optZero])

/-! ### What the codec, the CRC engine and the wire codec read -/

/-- A checked command that answers from one state answers the same outputs from every other. -/
theorem unlessRefused_of_next {r : Option Refusal} {t u : State} (h : unlessRefused r t = .next u)
    (t' : State) : u = t ∧ unlessRefused r t' = .next t' := by
  obtain ⟨rfl, rfl⟩ := unlessRefused_next h
  exact ⟨rfl, rfl⟩

/-- Settles O54: a check looks at operands only, and so does the decoder. -/
theorem pureCommandsReadOnlyOperands : Obligations.PureCommandsReadOnlyOperands := by
  intro s s' t
  refine ⟨?_, ?_, ?_, ?_, ?_, ?_⟩
  · intro fields h
    obtain ⟨rfl, h'⟩ := unlessRefused_of_next (exec_pack s fields ▸ h) _
    exact ⟨_, (exec_pack s' fields).trans h', rfl⟩
  · intro b off width h
    obtain ⟨rfl, h'⟩ := unlessRefused_of_next (exec_unpack s b off width ▸ h) _
    exact ⟨_, (exec_unpack s' b off width).trans h', rfl⟩
  · intro m h
    rw [exec_crc] at h
    cases h
    exact ⟨_, exec_crc s' m, rfl⟩
  · intro f h
    rw [exec_encode] at h
    cases h
    exact ⟨_, exec_encode s' f, rfl⟩
  · intro w h
    cases hdec : decodeWire w with
    | ok f =>
      rw [exec_decode_ok s hdec] at h
      cases h
      exact ⟨_, exec_decode_ok s' hdec, rfl, fun _ => rfl⟩
    | error e =>
      rw [exec_decode_error s hdec] at h
      cases h
      exact ⟨_, exec_decode_error s' hdec, rfl, fun hok => by simp at hok⟩
  · intro w h
    cases hdec : decodeWire w with
    | ok f =>
      rw [exec_selfcheck_ok s hdec] at h
      cases h
      exact ⟨_, exec_selfcheck_ok s' hdec, rfl, fun _ => ⟨rfl, rfl, rfl⟩⟩
    | error e =>
      rw [exec_selfcheck_error s hdec] at h
      cases h
      exact ⟨_, exec_selfcheck_error s' hdec, rfl, fun hok => by simp at hok⟩

end Sys2Proof.Machine
end

section
/-!
PROOFS. The state tracker (42_state_tracker.md), RESET (70_reset_and_hazards.md) and the invariant:
what each register becomes, and that every step keeps `INV` (10_state.md R36, R37).
-/
namespace Sys2Proof.Machine

open Sys2Proof.Claims

/-! ### The invariant -/

theorem nextFire_cases (cfg : Config) (c : BitVec cfg.nbtn) :
    nextFire cfg c = cfg.fireIdle ∨ nextFire cfg c = cfg.fireSingle ∨
      nextFire cfg c = cfg.fireRapid := by
  unfold nextFire
  split_ifs <;> simp

/-- The new `TAIMATU` is the OPEN function's value, which its two bits hold. -/
theorem nextTaimatu_toNat (cfg : Config) (t : BitVec 2) (p c : BitVec cfg.nbtn) :
    (nextTaimatu cfg t p c).toNat = (cfg.taimatuFn t p c).val := by
  have h := (cfg.taimatuFn t p c).isLt
  rw [nextTaimatu, BitVec.toNat_ofNat]
  omega

theorem nextTaimatu_le_two (cfg : Config) (t : BitVec 2) (p c : BitVec cfg.nbtn) :
    (nextTaimatu cfg t p c).toNat ≤ 2 := by
  rw [nextTaimatu_toNat]
  exact Nat.le_of_lt_succ (cfg.taimatuFn t p c).isLt

/-- ADVANCE leaves registers that satisfy `INV`, from any registers (42_state_tracker.md R118). -/
theorem advanceRegs_inv (cfg : Config) (r : RegsOf cfg.nbtn) (b : BitVec cfg.nbtn) :
    (advanceRegs cfg r b).Inv cfg :=
  ⟨Nat.le_of_lt_succ (advanceRegs cfg r b).ts.isLt,
    Nat.le_of_lt_succ (advanceRegs cfg r b).wheel.isLt, nextFire_cases cfg b,
    nextTaimatu_le_two cfg ..⟩

theorem reset_inv : Regs.reset.Inv Config.hw := by
  unfold RegsOf.Inv
  decide

/-- The registers after a command: RESET's, ADVANCE's on the vector the command gives, or the old
ones (10_state.md R37). -/
theorem exec_next_regs {i : Instr} {s t : State} (h : exec i s = .next t) :
    (i = .reset ∧ t.regs = Regs.reset) ∨
      (∃ b, trackerInput i = some b ∧ t.regs = advanceRegs Config.hw s.regs b) ∨
      (i ≠ .reset ∧ trackerInput i = none ∧ t.regs = s.regs) := by
  cases i with
  | reset =>
    cases h
    exact .inl ⟨rfl, rfl⟩
  | advance b =>
    cases h
    exact .inr (.inl ⟨b, rfl, rfl⟩)
  | tick b dx dy dyaw =>
    cases h
    exact .inr (.inl ⟨b, rfl, rfl⟩)
  | pack fields =>
    obtain ⟨-, rfl⟩ := unlessRefused_next (exec_pack s fields ▸ h)
    exact .inr (.inr ⟨nofun, rfl, rfl⟩)
  | unpack b off width =>
    obtain ⟨-, rfl⟩ := unlessRefused_next (exec_unpack s b off width ▸ h)
    exact .inr (.inr ⟨nofun, rfl, rfl⟩)
  | decode w =>
    obtain ⟨t', hexec, hregs, -⟩ := exec_decode_spec s w
    obtain rfl := Host.Outcome.next.inj (hexec.symm.trans h)
    exact .inr (.inr ⟨nofun, rfl, hregs⟩)
  | selfcheck w =>
    obtain ⟨t', -, hexec, -, hregs, -⟩ := selfcheckIsDecodeAndCrc s w
    obtain rfl := Host.Outcome.next.inj (hexec.symm.trans h)
    exact .inr (.inr ⟨nofun, rfl, hregs⟩)
  | _ =>
    cases h
    exact .inr (.inr ⟨nofun, rfl, rfl⟩)

/-- `WIRE_OUT` has its 22 characters after every command: an encoded frame, or free values. -/
theorem exec_next_wireOut_length {i : Instr} {s t : State} (h : exec i s = .next t) :
    t.out.wireOut.length = Config.wireLen := by
  cases i with
  | encode f =>
    cases h
    exact encodeFrame_length f
  | tick b dx dy dyaw =>
    cases h
    exact encodeFrame_length _
  | pack fields =>
    obtain ⟨-, rfl⟩ := unlessRefused_next (exec_pack s fields ▸ h)
    exact s.undefinedOut_wireOut_length
  | unpack b off width =>
    obtain ⟨-, rfl⟩ := unlessRefused_next (exec_unpack s b off width ▸ h)
    exact s.undefinedOut_wireOut_length
  | decode w =>
    cases hdec : decodeWire w <;> simp only [exec, execDecode, hdec] at h <;> cases h <;>
      exact s.undefinedOut_wireOut_length
  | selfcheck w =>
    cases hdec : decodeWire w <;> simp only [exec, execSelfcheck, hdec] at h <;> cases h <;>
      exact s.undefinedOut_wireOut_length
  | _ =>
    cases h
    exact s.undefinedOut_wireOut_length

/-- A command keeps `INV` on the registers: it writes them as RESET or ADVANCE does, or not at
all. -/
theorem exec_next_regs_inv {i : Instr} {s t : State} (hinv : s.regs.Inv Config.hw)
    (h : exec i s = .next t) : t.regs.Inv Config.hw := by
  rcases exec_next_regs h with ⟨-, hregs⟩ | ⟨b, -, hregs⟩ | ⟨-, -, hregs⟩ <;> rw [hregs]
  · exact reset_inv
  · exact advanceRegs_inv ..
  · exact hinv

/-- Settles O11: an idle step keeps the state, and a command keeps each half of the invariant. -/
theorem stepKeepsInv : Obligations.StepKeepsInv := by
  intro s t hinv hstep
  rcases step_next_cases hstep with ⟨-, rfl⟩ | ⟨c, rest, i, -, -, hexec⟩
  · exact hinv
  · obtain ⟨hregs, -⟩ := hinv
    exact ⟨exec_next_regs_inv (s := s.taken rest) hregs hexec, exec_next_wireOut_length hexec⟩

/-- Settles O10. -/
theorem powerUpSatisfiesInv : Obligations.PowerUpSatisfiesInv := ⟨reset_inv, rfl⟩

/-- Settles O9. -/
theorem powerUpRegisters : Obligations.PowerUpRegisters := by
  exact ⟨rfl, rfl, rfl, rfl, rfl, rfl, rfl, rfl, rfl, rfl⟩

/-- Settles O14. -/
theorem resetRestoresPowerUpRegisters : Obligations.ResetRestoresPowerUpRegisters :=
  fun s => ⟨_, exec_reset s, rfl, rfl⟩

/-! ### Which commands write registers -/

/-- A step that takes a command and answers is the command's meaning, on the state with it taken. -/
theorem step_next_of_host {s t : State} {c : Command} {rest : List Command}
    (hhost : s.host = c :: rest) (hstep : step s = .next t) :
    ∃ i, decode c = .ok i ∧ exec i (s.taken rest) = .next t := by
  rcases step_next_cases hstep with ⟨hnil, -⟩ | ⟨c', rest', i, hhost', hdec, hexec⟩
  · rw [hhost] at hnil
    cases hnil
  · obtain ⟨rfl, rfl⟩ := List.cons.inj (hhost.symm.trans hhost')
    exact ⟨i, hdec, hexec⟩

/-- A command that gives the tracker a vector is an ADVANCE or a TICK. -/
theorem opcodeOf_of_trackerInput {i : Instr} {b : Buttons} (h : trackerInput i = some b) :
    opcodeOf i = 0x4 ∨ opcodeOf i = 0x9 := by
  cases i with
  | advance _ => exact .inl rfl
  | tick _ _ _ _ => exact .inr rfl
  | _ => cases h

/-- Settles O12. -/
theorem onlyTrackerCommandsWriteRegisters : Obligations.OnlyTrackerCommandsWriteRegisters := by
  intro s t c rest hhost hstep
  obtain ⟨i, hdec, hexec⟩ := step_next_of_host hhost hstep
  refine ⟨(exec_next_host hexec).1, fun h0 h4 h9 => ?_⟩
  have hop : opcodeOf i = c.op := (encode_of_decode hdec).1
  rcases exec_next_regs hexec with ⟨rfl, -⟩ | ⟨b, hb, -⟩ | ⟨-, -, hregs⟩
  · exact absurd hop.symm h0
  · rcases opcodeOf_of_trackerInput hb with h | h
    · exact absurd (hop.symm.trans h) h4
    · exact absurd (hop.symm.trans h) h9
  · exact hregs

/-! ### The latches -/

/-- With neither edge the hand latch stays. -/
theorem nextHand_of_no_edge {n : Nat} {p c : BitVec n} (h : Bool) (hfwd : rise p c .fwd = false)
    (hback : rise p c .back = false) : nextHand h p c = h := by
  simp [nextHand, hfwd, hback]

theorem nextHand_of_forward {n : Nat} {p c : BitVec n} (h : Bool) (hfwd : rise p c .fwd = true)
    (hback : rise p c .back = false) : nextHand h p c = true := by
  simp [nextHand, hfwd, hback]

/-- A backward edge clears the hand latch, whatever the forward button does. -/
theorem nextHand_of_backward {n : Nat} {p c : BitVec n} (h : Bool) (hback : rise p c .back = true) :
    nextHand h p c = false := by
  simp [nextHand, hback]

/-- Settles O29; `edge` at bits 4 and 5 is `rise` of the forward and backward buttons by
definition. -/
theorem advanceHandLatch : Obligations.AdvanceHandLatch := by
  intro s btn
  exact ⟨_, exec_advance s btn, nextHand_of_forward _, fun _ => nextHand_of_backward _,
    nextHand_of_no_edge _⟩

/-- Both D-pad edges: up is clamped before down is counted, so only level 3 moves. -/
theorem nextWheel_of_both {n : Nat} {p c : BitVec n} (w : BitVec 2) (hup : rise p c .up = true)
    (hdown : rise p c .down = true) : nextWheel w p c = if w = 3 then 2 else w := by
  have hw := w.isLt
  apply BitVec.eq_of_toNat_eq
  simp only [nextWheel_toNat, hup, hdown, if_true]
  split
  next h => subst h; rfl
  next h =>
    have : w.toNat ≠ 3 := fun h3 => h (BitVec.eq_of_toNat_eq h3)
    omega

/-- Settles O28. -/
theorem simultaneousEdges : Obligations.SimultaneousEdges := by
  intro s btn
  exact ⟨_, exec_advance s btn, nextWheel_of_both _, fun _ => nextHand_of_backward _,
    fun hon _ => nextEstop_of_activate _ hon⟩

/-- ADVANCE always changes `TS`. -/
theorem advanceRegs_ts_ne (cfg : Config) (r : RegsOf cfg.nbtn) (b : BitVec cfg.nbtn) :
    (advanceRegs cfg r b).ts ≠ r.ts := by
  intro h
  have hts := r.ts.isLt
  have hcount := advanceRegs_ts_toNat cfg r b
  rw [h] at hcount
  omega

/-- A value that keeps where neither edge is seen changes only on one of them. -/
theorem edge_of_ne {α : Type} {x y : α} {e₁ e₂ : Bool} (hkeep : e₁ = false → e₂ = false → x = y)
    (h : x ≠ y) : e₁ = true ∨ e₂ = true := by
  by_contra hno
  obtain ⟨h₁, h₂⟩ := not_or.mp hno
  exact h (hkeep (Bool.eq_false_of_not_eq_true h₁) (Bool.eq_false_of_not_eq_true h₂))

/-- Settles O13: outside RESET the registers are ADVANCE's on the vector given, or the old ones. -/
theorem latchesChangeOnlyOnTheirEdges : Obligations.LatchesChangeOnlyOnTheirEdges := by
  intro s t c rest i hhost hdec hreset hstep
  obtain ⟨i', hdec', hexec⟩ := step_next_of_host hhost hstep
  obtain rfl : i' = i := Except.ok.inj (hdec'.symm.trans hdec)
  rcases exec_next_regs hexec with ⟨rfl, -⟩ | ⟨b, hb, hregs⟩ | ⟨-, hnone, hregs⟩
  · exact absurd rfl hreset
  · rw [hregs]
    refine ⟨fun h => ⟨b, hb, ?_⟩, fun h => ⟨b, hb, ?_⟩, fun h => ⟨b, hb, ?_⟩, ?_⟩
    · exact edge_of_ne (nextHand_of_no_edge _) h
    · exact edge_of_ne (nextEstop_of_no_edge _) h
    · exact edge_of_ne (nextWheel_of_no_edge _) h
    · exact iff_of_true (advanceRegs_ts_ne Config.hw s.regs b) ⟨b, hb⟩
  · have hregs' : t.regs = s.regs := hregs
    simp [hregs', hnone]

/-! ### Levels and OPEN functions -/

/-- Settles O31. -/
theorem advanceSamplesSpeedAndVector : Obligations.AdvanceSamplesSpeedAndVector :=
  fun s btn => ⟨_, exec_advance s btn, rfl, rfl⟩

/-- Settles O32. -/
theorem advanceFireAndAngleFollowLevels : Obligations.AdvanceFireAndAngleFollowLevels :=
  fun s btn => ⟨_, exec_advance s btn, rfl, rfl⟩

/-- Settles O33. -/
theorem advanceTaimatuIsTheOpenFunction : Obligations.AdvanceTaimatuIsTheOpenFunction :=
  fun s btn => ⟨_, exec_advance s btn, nextTaimatu_toNat .., nextTaimatu_le_two ..⟩

/-- The new `MG` reads bits 6 and 7 of the two vectors, and nothing else of them. -/
theorem nextMg_eq (m : BitVec 2) (p c : Buttons) :
    nextMg Config.hw m p c =
      Config.hw.mgFn m (p.getLsbD 6) (p.getLsbD 7) (c.getLsbD 6) (c.getLsbD 7) := rfl

/-- Settles O34. -/
theorem advanceMgSeesOnlyItsButtons : Obligations.AdvanceMgSeesOnlyItsButtons := by
  refine ⟨fun s btn => ⟨_, exec_advance s btn, nextMg_eq ..⟩, ?_⟩
  intro s s' btn btn' hmg hbits
  refine ⟨_, _, exec_advance s btn, exec_advance s' btn', ?_⟩
  obtain ⟨hprev6, hbtn6⟩ := hbits 6 (.inl rfl)
  obtain ⟨hprev7, hbtn7⟩ := hbits 7 (.inr rfl)
  simp only [State.commit_regs, advanceRegs_mg, nextMg_eq, hmg, hprev6, hprev7, hbtn6, hbtn7]

/-- Settles O35: no register but `ESTOP` is computed from `ESTOP`. -/
theorem estopGatesNothingInTheTracker : Obligations.EstopGatesNothingInTheTracker := by
  intro s s' btn e hregs
  refine ⟨_, _, exec_advance s btn, exec_advance s' btn, ?_⟩
  rw [State.commit_regs, State.commit_regs, hregs]
  rfl

/-! ### A held vector -/

/-- A vector shows no edge against itself. -/
theorem rise_self {n : Nat} (c : BitVec n) (b : Button) : rise c c b = false := by
  simp [rise]

/-- A second ADVANCE with one vector counts `TS` and moves only what the OPEN functions may
(42_state_tracker.md R117). -/
theorem advanceRegs_advanceRegs (cfg : Config) (r : RegsOf cfg.nbtn) (b : BitVec cfg.nbtn) :
    advanceRegs cfg (advanceRegs cfg r b) b =
      { advanceRegs cfg r b with
        ts := (advanceRegs cfg r b).ts + 1
        taimatu := (advanceRegs cfg (advanceRegs cfg r b) b).taimatu
        mg := (advanceRegs cfg (advanceRegs cfg r b) b).mg } := by
  have hts : (advanceRegs cfg (advanceRegs cfg r b) b).ts = (advanceRegs cfg r b).ts + 1 := by
    apply BitVec.eq_of_toNat_eq
    rw [advanceRegs_ts_toNat, BitVec.toNat_add]
    rfl
  refine (RegsOf.mk.injEq ..).mpr ⟨hts, ?_, rfl, rfl, ?_, rfl, ?_, rfl, rfl, rfl⟩
  · exact nextWheel_of_no_edge _ (rise_self b .up) (rise_self b .down)
  · exact nextHand_of_no_edge _ (rise_self b .fwd) (rise_self b .back)
  · exact nextEstop_of_no_edge _ (rise_self b .estopOn) (rise_self b .estopOff)

/-- Settles O36. -/
theorem heldButtonsGiveNoSecondEdge : Obligations.HeldButtonsGiveNoSecondEdge :=
  fun s btn => ⟨_, _, exec_advance s btn, exec_advance _ btn, advanceRegs_advanceRegs ..⟩

end Sys2Proof.Machine
end

section
/-!
PROOFS. The frame assembler (43_frame_assembler.md) and TICK (45_tick.md): the header and velocity
bytes, what every built frame satisfies, and what SELFCHECK reads back from it (44_wire_codec.md
R157).
-/
namespace Sys2Proof.Machine

open Sys2Proof.Claims

/-! ### Fields read back from a built byte -/

theorem bitNat_injective : Function.Injective bitNat := by decide

section
variable {fields : List Field} (h : packWellFormed fields = true) (r : BitRange)
include h

/-- SELFCHECK reads from a packed byte the value that was packed at the range. -/
theorem extract_packByte (n : Nat) (hn : r.width = n) {v : BitVec n}
    (hmem : fieldAt r v.toNat ∈ fields) : extract n r (packByte fields) = v := by
  subst hn
  apply BitVec.eq_of_toNat_eq
  have hread := unpackByte_packByte h hmem
  simp only [fieldAt] at hread
  rw [extract, BitVec.toNat_setWidth, hread, Nat.mod_eq_of_lt v.isLt]

/-- SELFCHECK reads from a packed byte the flag that was packed at the bit. -/
theorem extractBit_packByte {v : Bool} (hmem : fieldAt r v.toNat ∈ fields) :
    extractBit r (packByte fields) = v := by
  have hread := unpackByte_packByte h hmem
  simp only [fieldAt] at hread
  have hlt : (unpackByte (packByte fields) r.off r.width).toNat < 2 := hread ▸ v.toNat_lt
  have hbit : bitNat (extractBit r (packByte fields)) = bitNat v := by
    rw [extractBit, bitNat_bne_zero hlt, hread, toNat_eq_bitNat]
  exact bitNat_injective hbit

end

@[simp] theorem buildFrame_header (cfg : Config) (r : RegsOf cfg.nbtn) (dx dy dyaw : Rat) :
    (buildFrame cfg r dx dy dyaw).header = packByte (headerFields cfg r) := rfl

/-- The CRC byte of a built frame is the CRC of its bytes 0-5 (43_frame_assembler.md R129). -/
theorem buildFrame_crc (cfg : Config) (r : RegsOf cfg.nbtn) (dx dy dyaw : Rat) :
    (buildFrame cfg r dx dy dyaw).crc = crcOf cfg (frameBody (buildFrame cfg r dx dy dyaw)) := rfl

/-! What SELFCHECK reads from the three packed bytes of a frame, field by field. -/

section
variable (cfg : Config) (r : RegsOf cfg.nbtn)

theorem extractBit_header_estopN :
    extractBit hdrEstopN (packByte (headerFields cfg r)) = !r.estop := by
  have hneg : (!r.estop).toNat = 1 - r.estop.toNat := by cases r.estop <;> rfl
  exact extractBit_packByte (headerFields_wellFormed cfg r) hdrEstopN (by simp [headerFields, hneg])

theorem extract_header_ts : extract 3 hdrTs (packByte (headerFields cfg r)) = r.ts :=
  extract_packByte (headerFields_wellFormed cfg r) hdrTs 3 rfl (by simp [headerFields])

theorem extract_firing_wheel :
    extract 2 firWheel (packByte (firingFields r)) = if r.estop then 0 else r.wheel :=
  extract_packByte (firingFields_wellFormed r) firWheel 2 rfl
    (by cases he : r.estop <;> simp [firingFields, he])

theorem extract_firing_fire : extract 2 firFire (packByte (firingFields r)) = r.fire :=
  extract_packByte (firingFields_wellFormed r) firFire 2 rfl (by simp [firingFields])

theorem extract_firing_taimatu :
    extract 2 firTaimatu (packByte (firingFields r)) = if r.estop then 0 else r.taimatu :=
  extract_packByte (firingFields_wellFormed r) firTaimatu 2 rfl
    (by cases he : r.estop <;> simp [firingFields, he])

theorem extractBit_firing_hand :
    extractBit firHand (packByte (firingFields r)) = if r.estop then false else r.hand :=
  extractBit_packByte (firingFields_wellFormed r) firHand
    (by cases he : r.estop <;> simp [firingFields, he])

theorem extractBit_firing_angle : extractBit firAngle (packByte (firingFields r)) = r.angle :=
  extractBit_packByte (firingFields_wellFormed r) firAngle (by simp [firingFields])

theorem extractBit_opt2_speed : extractBit optSpeed (packByte (opt2Fields r)) = r.speed :=
  extractBit_packByte (opt2Fields_wellFormed r) optSpeed (by simp [opt2Fields])

theorem extract_opt2_mg : extract 2 optMg (packByte (opt2Fields r)) = r.mg :=
  extract_packByte (opt2Fields_wellFormed r) optMg 2 rfl (by simp [opt2Fields])

end

/-! ### TICK's own message -/

/-- Settles O57: SELFCHECK decodes the TICK's message to its frame, whose CRC is its own, and reads
each packed field back at its range. -/
theorem dryRunAlwaysPasses : Obligations.DryRunAlwaysPasses := by
  intro s btn dx dy dyaw
  refine ⟨_, _, exec_tick s btn dx dy dyaw, rfl, exec_selfcheck_ok _ (decodeWire_encodeFrame _),
    rfl, rfl, (crcOkFlag_iff ..).mpr (buildFrame_crc ..).symm, rfl, rfl, ?_⟩
  simp only [State.commit_regs, State.commit_out]
  generalize advanceRegs Config.hw s.regs btn = r
  refine ⟨?_, extract_header_ts _ r, extract_firing_fire _ r, extractBit_firing_angle _ r,
    extractBit_opt2_speed _ r, extract_opt2_mg _ r, extract_firing_wheel _ r,
    extract_firing_taimatu _ r, extractBit_firing_hand _ r, s8_eq_toInt _, s8_eq_toInt _,
    s8_eq_toInt _⟩
  exact (congrArg (!·) (extractBit_header_estopN _ r)).trans (Bool.not_not _)

/-! ### BUILD's header -/

/-- The header byte by its cells (43_frame_assembler.md R121). -/
theorem packByte_headerFields_toNat (cfg : Config) (r : RegsOf cfg.nbtn) :
    (packByte (headerFields cfg r)).toNat =
      128 * (1 - r.estop.toNat) + 32 * cfg.datatypeCode.toNat + 4 * r.ts.toNat := by
  obtain ⟨-, -, -, hfit⟩ := packWellFormed_iff.mp (headerFields_wellFormed cfg r)
  have hdesc : (headerFields cfg r).Pairwise fun f g => g.off + g.width ≤ f.off := by
    simp [headerFields, fieldAt, hdrEstopN, hdrDatatype, hdrTs, hdrNodef]
  rw [packByte_toNat_of_descending hdesc (fieldsFit_iff.mp hfit)]
  have htype := cfg.datatypeCode.isLt
  have hts := r.ts.isLt
  simp only [headerFields, fieldAt, hdrEstopN, hdrDatatype, hdrTs, hdrNodef, List.map_cons,
    List.map_nil, List.sum_cons, List.sum_nil]
  omega

/-- This hardware's header (43_frame_assembler.md R125). -/
theorem packByte_headerFields_hw_toNat (r : Regs) :
    (packByte (headerFields Config.hw r)).toNat =
      (if r.estop then 0x20 else 0xA0) + 4 * r.ts.toNat := by
  rw [packByte_headerFields_toNat, hw_datatypeCode]
  cases r.estop <;> rfl

/-- Settles O37. -/
theorem buildHeaderByte : Obligations.BuildHeaderByte := fun s dx dy dyaw =>
  ⟨_, exec_build s dx dy dyaw, rfl, rfl, packByte_headerFields_hw_toNat s.regs⟩

/-- Settles O15: after RESET the TICK's `TS` is 1, and only the activate button sets `ESTOP`. -/
theorem firstFrameAfterReset : Obligations.FirstFrameAfterReset := by
  intro s btn dx dy dyaw
  refine ⟨_, _, exec_reset s, exec_tick _ btn dx dy dyaw, ?_⟩
  rw [State.commit_out, State.commit_regs, resetRegs_hw, buildFrame_header]
  apply BitVec.eq_of_toNat_eq
  have hestop : (advanceRegs Config.hw Regs.reset btn).estop = btn.getLsbD 8 := by
    have hon : rise Regs.reset.prev btn .estopOn = btn.getLsbD 8 := by
      simp [rise, held, Regs.reset, buttonBit]
    have hoff :
        (if rise Regs.reset.prev btn .estopOff then false else Regs.reset.estop) = false := by
      split <;> rfl
    rw [advanceRegs_estop, nextEstop, hon]
    simp only [hoff]
    cases btn.getLsbD 8 <;> rfl
  have hts : (advanceRegs Config.hw Regs.reset btn).ts.toNat = 1 := by
    rw [advanceRegs_ts_toNat]
    rfl
  rw [packByte_headerFields_hw_toNat, hestop, hts]
  split <;> rfl

/-! ### Velocities -/

/-- Rounding toward zero is the floor of the nonnegative and the ceiling of the negative. -/
theorem truncRat_eq (q : Rat) : truncRat q = if 0 ≤ q then q.floor else q.ceil := by
  rw [truncRat]
  split
  next h =>
    rw [Rat.floor_def, Int.tdiv_eq_ediv_of_nonneg (Rat.num_nonneg.mpr h)]
  next h =>
    have hneg : 0 ≤ -q := neg_nonneg.mpr (le_of_not_ge h)
    rw [Rat.ceil_eq_neg_floor_neg, Rat.floor_def,
      ← Int.tdiv_eq_ediv_of_nonneg (Rat.num_nonneg.mpr hneg), Rat.neg_num,
      Rat.neg_den, Int.neg_tdiv, neg_neg]

theorem dutyToInt_eq_velocityOf (d : Rat) : dutyToInt d = velocityOf d := by
  have hsign : (0 : Rat) ≤ (Config.dutyScale : Rat) * d ↔ 0 ≤ d :=
    mul_nonneg_iff_of_pos_left (by norm_num)
  rw [dutyToInt, truncRat_eq, if_congr hsign rfl rfl]
  norm_num [velocityOf]

/-- Settles O40. -/
theorem buildVelocityBytes : Obligations.BuildVelocityBytes := by
  intro s dx dy dyaw
  refine ⟨_, exec_build s dx dy dyaw, ?_⟩
  simp only [State.commit_out, buildFrame_velX, buildFrame_velY, buildFrame_velYaw, velByte_toInt,
    dutyToInt_eq_velocityOf]
  split <;> rfl

/-! ### Built frames -/

/-- `FIRE` of a legal state is one of the three codes, all at most 2. -/
theorem fire_le_two {r : Regs} (h : r.Inv Config.hw) : r.fire.toNat ≤ 2 := by
  obtain ⟨-, -, hfire, -⟩ := h
  rcases hfire with h | h | h <;> rw [h] <;> decide

/-- Settles O43. -/
theorem builtFramesAreValid : Obligations.BuiltFramesAreValid := by
  intro s dx dy dyaw hinv
  obtain ⟨hregs, -⟩ := hinv
  refine ⟨_, exec_build s dx dy dyaw, buildFrame_crc .., ?_⟩
  simp only [State.commit_out, buildFrame_header, buildFrame_firing, buildFrame_opt2,
    packByte_headerFields_toNat, packByte_firingFields_toNat, packByte_opt2Fields_toNat,
    hw_datatypeCode]
  have hts := s.regs.ts.isLt
  have hmg := s.regs.mg.isLt
  have hfire := fire_le_two hregs
  obtain ⟨-, -, -, htaimatu⟩ := hregs
  have hwheel' : unlessEstop s.regs s.regs.wheel.toNat < 4 := unlessEstop_lt s.regs.wheel.isLt
  have htaimatu' : unlessEstop s.regs s.regs.taimatu.toNat < 3 := unlessEstop_lt (by omega)
  have hhand' : unlessEstop s.regs (bitNat s.regs.hand) < 2 := unlessEstop_lt (bitNat_lt_two _)
  have hangle := bitNat_lt_two s.regs.angle
  have hcode : (0b01 : BitVec 2).toNat = 1 := rfl
  omega

/-- Settles O42: the frame is made of the other nine registers. -/
theorem buildReadsNoPreviousVector : Obligations.BuildReadsNoPreviousVector := by
  intro s s' p dx dy dyaw hregs
  refine ⟨_, _, exec_build s dx dy dyaw, exec_build s' dx dy dyaw, ?_⟩
  rw [State.commit_out, State.commit_out, hregs]
  rfl

/-- Writing a byte of a frame is setting its entry in the list of bytes. -/
theorem frameBytes_frameWrite (f : Frame) {k : Nat} (b : Byte) (h : k < 7) :
    frameBytes (frameWrite f k b) = (frameBytes f).set k b := by
  interval_cases k <;> rfl

theorem frameWrite_of_le (f : Frame) {k : Nat} (b : Byte) (h : 7 ≤ k) : frameWrite f k b = f := by
  obtain ⟨m, rfl⟩ := Nat.exists_eq_add_of_le' h
  rfl

/-- Settles O44. -/
theorem frameWriteThenRead : Obligations.FrameWriteThenRead := by
  intro f k j b
  by_cases hk : k < 7
  · have hlen : k < (frameBytes f).length := hk
    rw [frameRead, frameRead, frameBytes_frameWrite f b hk, List.getElem?_set]
    simp [hk, hlen, eq_comm]
  · rw [frameWrite_of_le f b (by omega), if_neg fun h => hk h.2]

/-! ### TICK -/

/-- A step that takes an encoded command performs it. -/
theorem step_encode (s : State) (i : Instr) (rest : List Command) :
    step { s with host := encode i :: rest } = exec i { s with host := rest } :=
  stepRunsDecodedCommand _ _ _ _ rfl (decodeOfEncode i)

/-- Settles O55: each of the four steps is its command's meaning, and TICK's is theirs composed. -/
theorem tickIsAdvanceBuildEncode : Obligations.TickIsAdvanceBuildEncode := by
  intro s btn dx dy dyaw
  refine ⟨_, _, _, _, (step_encode ..).trans (exec_advance ..),
    (step_encode ..).trans (exec_build ..),
    (step_encode ..).trans (exec_encode ..), (step_encode ..).trans (exec_tick ..), ?_⟩
  exact ⟨rfl, rfl, rfl⟩

/-- Settles O56: the edge sets `ESTOP` in the registers that TICK's BUILD reads, which zeroes the
bits. -/
theorem estopEdgeShowsInItsOwnFrame : Obligations.EstopEdgeShowsInItsOwnFrame := by
  intro s btn dx dy dyaw hedge
  have hestop : (advanceRegs Config.hw s.regs btn).estop = true := nextEstop_of_activate _ hedge
  refine ⟨_, exec_tick s btn dx dy dyaw, hestop, ?_⟩
  simp only [State.commit_out, buildFrame_header, buildFrame_firing]
  generalize advanceRegs Config.hw s.regs btn = r at hestop
  rw [packByte_headerFields_hw_toNat, packByte_firingFields_toNat]
  simp only [unlessEstop, hestop, if_true]
  have hts := r.ts.isLt
  have hfire := r.fire.isLt
  have hangle := bitNat_lt_two r.angle
  omega

end Sys2Proof.Machine
end

section
/-!
PROOFS. The CRC engine (41_crc_engine.md): its table form (R89), linearity and the polynomial
remainder (R90), and the detection of every error in one byte (R92).
-/
namespace Sys2Proof.Machine

open Sys2Proof.Claims

/-! ### One byte -/

/-- Seven shifts of this hardware's register are the printed table (41_crc_engine.md R89). -/
theorem crcShifts_eq_t7 (x : Byte) : crcShifts 0xEB 7 x = t7 x := by
  revert x
  decide

theorem crcByte_hw_eq_t7 (c b : Byte) : crcByte Config.hw c b = t7 (c ^^^ b) := crcShifts_eq_t7 _

/-- This hardware's checksum is the fold of its bytes from 0. -/
theorem crcOf_hw (m : CrcBlock) :
    crcOf Config.hw m = (blockBytes m).foldl (crcByte Config.hw) 0 := BitVec.xor_zero

/-- Settles O22: the fold of the engine's bytes is the fold of the table's. -/
theorem crcIsTheTableForm : Obligations.CrcIsTheTableForm := by
  intro s m
  refine ⟨_, exec_crc s m, rfl, rfl, ?_⟩
  have hstep : crcByte Config.hw = fun c b => t7 (c ^^^ b) := funext₂ crcByte_hw_eq_t7
  rw [State.commit_out, crcOf_hw, hstep]
  rfl

/-- One byte is linear in the register and the input together. -/
theorem crcByte_xor (cfg : Config) (c c' b b' : Byte) :
    crcByte cfg (c ^^^ c') (b ^^^ b') = crcByte cfg c b ^^^ crcByte cfg c' b' := by
  have hswap : (c ^^^ c') ^^^ (b ^^^ b') = (c ^^^ b) ^^^ (c' ^^^ b') := by ac_rfl
  rw [crcByte, hswap, crcShifts_xor]
  rfl

/-- A shift loses nothing: the polynomial's constant term is 1. -/
theorem crcShift_eq_zero {x : Byte} : crcShift 0xEB x = 0#8 → x = 0#8 := by
  revert x
  decide

theorem crcShifts_eq_zero {n : Nat} {x : Byte} (h : crcShifts 0xEB n x = 0#8) : x = 0#8 := by
  induction n generalizing x with
  | zero => exact h
  | succ n ih => exact crcShift_eq_zero (ih h)

/-- A byte brings the register to 0 exactly where it equals the register. -/
theorem crcByte_hw_eq_zero_iff (c b : Byte) : crcByte Config.hw c b = 0#8 ↔ c = b := by
  constructor
  · intro h
    exact BitVec.xor_eq_zero_iff.mp (crcShifts_eq_zero h)
  · rintro rfl
    rw [crcByte, BitVec.xor_self]
    decide

/-! ### Six bytes -/

/-- The checksum under any `CRC_INIT` and `CRC_XOROUT`: no byte's step depends on them. -/
theorem crcOf_crcConfig (init xorOut : Byte) (m : CrcBlock) :
    crcOf (crcConfig init xorOut) m =
      (blockBytes m).foldl (crcByte Config.hw) init ^^^ xorOut := rfl

theorem foldl_crcByte_xor (cfg : Config) (c c' : Byte) (m e : CrcBlock) :
    (blockBytes (xorBlock m e)).foldl (crcByte cfg) (c ^^^ c') =
      (blockBytes m).foldl (crcByte cfg) c ^^^ (blockBytes e).foldl (crcByte cfg) c' := by
  simp only [blockBytes, xorBlock, List.foldl_cons, List.foldl_nil, crcByte_xor]

/-- An error pattern changes the checksum by its own CRC under this hardware's parameters. -/
theorem crcOf_xorBlock (init xorOut : Byte) (m e : CrcBlock) :
    crcOf (crcConfig init xorOut) (xorBlock m e) =
      crcOf (crcConfig init xorOut) m ^^^ crcOf Config.hw e := by
  have h := foldl_crcByte_xor Config.hw init 0 m e
  rw [show init ^^^ 0 = init from BitVec.xor_zero] at h
  rw [crcOf_crcConfig, crcOf_crcConfig, h, crcOf_hw]
  ac_rfl

/-- Settles O25: this hardware's parameters are 0 and 0. -/
theorem crcIsLinear : Obligations.CrcIsLinear := fun s m e =>
  ⟨_, _, _, exec_crc s m, exec_crc s e, exec_crc s (xorBlock m e), crcOf_xorBlock 0 0 m e⟩

/-- A nonzero error in one byte has a nonzero CRC: no later byte, being 0, brings the register to
0. -/
theorem crcOf_errorIn_ne_zero (k : Fin 6) {e : Byte} (he : e ≠ 0) :
    crcOf Config.hw (errorIn k e) ≠ 0 := by
  have hzero : crcByte Config.hw 0#8 0#8 = 0#8 := (crcByte_hw_eq_zero_iff 0 0).mpr rfl
  have he' : ¬ 0#8 = e := fun h => he h.symm
  rw [crcOf_hw]
  fin_cases k <;> simp [errorIn, blockBytes, hzero, crcByte_hw_eq_zero_iff, he']

/-- Settles O24. -/
theorem crcDetectsEveryErrorInOneByte : Obligations.CrcDetectsEveryErrorInOneByte := by
  intro init xorOut m k e he hsame
  rw [crcOf_xorBlock] at hsame
  exact crcOf_errorIn_ne_zero k he ((BitVec.xor_right_inj _).mp (hsame.trans BitVec.xor_zero.symm))

/-! ### The polynomial remainder -/

/-- XOR is addition over GF(2). -/
theorem byteX_xor (a b : Byte) : byteX (a ^^^ b) = byteX a + byteX b := by
  rw [byteX, byteX, byteX, ← Finset.sum_add_distrib]
  refine Finset.sum_congr rfl fun i _ => ?_
  rw [BitVec.getLsbD_xor]
  cases a.getLsbD i <;> cases b.getLsbD i <;> simp [CharTwo.add_self_eq_zero]

/-- A left shift multiplies by `X`, but for the bit it drops. -/
theorem X_mul_byteX (c : Byte) :
    Polynomial.X * byteX c = byteX (c <<< 1) + if c.msb then Polynomial.X ^ 8 else 0 := by
  have hmsb : c.msb = c.getLsbD 7 := BitVec.msb_eq_getLsbD_last c
  have hshift : byteX (c <<< 1) =
      ∑ i ∈ Finset.range 7, if c.getLsbD i then Polynomial.X ^ (i + 1) else 0 := by
    rw [byteX, Finset.sum_range_succ']
    have hlow : (c <<< 1).getLsbD 0 = false := by simp
    rw [hlow, if_neg Bool.false_ne_true, add_zero]
    refine Finset.sum_congr rfl fun i hi => ?_
    have hi7 : i < 7 := Finset.mem_range.mp hi
    rw [BitVec.getLsbD_shiftLeft, decide_eq_true (by omega), decide_eq_false (by omega)]
    rfl
  rw [hshift, hmsb, byteX, Finset.sum_range_succ, mul_add, Finset.mul_sum]
  simp only [mul_ite, mul_zero, ← pow_succ']

theorem crcModulus_monic : crcModulus.Monic := by
  unfold crcModulus
  monicity!

theorem crcModulus_degree : crcModulus.degree = 8 := by
  unfold crcModulus
  compute_degree!

theorem byteX_degree_lt (b : Byte) : (byteX b).degree < crcModulus.degree := by
  rw [crcModulus_degree]
  refine Polynomial.mem_degreeLT.mp (Submodule.sum_mem _ fun i hi => ?_)
  split
  · rw [Polynomial.mem_degreeLT, Polynomial.degree_X_pow]
    exact Nat.cast_lt.mpr (Finset.mem_range.mp hi)
  · exact Submodule.zero_mem _

/-- The polynomial `0xEB` stands for `P(X)` without its `X^8`. -/
theorem crcModulus_eq : crcModulus = Polynomial.X ^ 8 + byteX 0xEB := by
  simp [crcModulus, byteX, Finset.sum_range_succ]
  ring

/-- A shift iteration multiplies by `X`, less `P(X)` where the MSB was 1. -/
theorem byteX_crcShift (c : Byte) :
    byteX (crcShift 0xEB c) = Polynomial.X * byteX c + if c.msb then crcModulus else 0 := by
  rw [X_mul_byteX, crcShift]
  split
  · have htwice : (Polynomial.X ^ 8 + Polynomial.X ^ 8 : Polynomial (ZMod 2)) = 0 :=
      CharTwo.add_self_eq_zero _
    rw [byteX_xor, crcModulus_eq]
    linear_combination -htwice
  · rw [add_zero, add_zero]

/-! The engine modulo `P(X)`, where a shift iteration is multiplication by `X`. -/

theorem mk_byteX_crcShifts (n : Nat) (c : Byte) :
    AdjoinRoot.mk crcModulus (byteX (crcShifts 0xEB n c)) =
      AdjoinRoot.mk crcModulus (Polynomial.X ^ n * byteX c) := by
  induction n generalizing c with
  | zero => rw [crcShifts, pow_zero, one_mul]
  | succ n ih =>
    have hdrop : AdjoinRoot.mk crcModulus (if c.msb then crcModulus else 0) = 0 := by
      split
      · exact AdjoinRoot.mk_self
      · exact map_zero _
    rw [crcShifts, ih, byteX_crcShift, mul_add, map_add, map_mul _ _ (ite ..), hdrop, mul_zero,
      add_zero, pow_succ, mul_assoc]

theorem mk_byteX_crcByte (c b : Byte) :
    AdjoinRoot.mk crcModulus (byteX (crcByte Config.hw c b)) =
      AdjoinRoot.mk crcModulus (Polynomial.X ^ 7) *
        (AdjoinRoot.mk crcModulus (byteX c) + AdjoinRoot.mk crcModulus (byteX b)) := by
  rw [crcByte, ← map_add, ← map_mul, ← byteX_xor]
  exact mk_byteX_crcShifts 7 (c ^^^ b)

theorem mk_byteX_foldl (init : Byte) (m : CrcBlock) :
    AdjoinRoot.mk crcModulus (byteX ((blockBytes m).foldl (crcByte Config.hw) init)) =
      AdjoinRoot.mk crcModulus (byteX init * Polynomial.X ^ 42 + blockX m) := by
  simp only [blockBytes, List.foldl_cons, List.foldl_nil, mk_byteX_crcByte, blockX, map_add,
    map_mul, map_pow]
  ring

/-- The register after six bytes is the remainder of R90's polynomial: it is congruent to it, and of
lower degree than `P(X)`. -/
theorem byteX_foldl (init : Byte) (m : CrcBlock) :
    byteX ((blockBytes m).foldl (crcByte Config.hw) init) =
      Polynomial.modByMonic (byteX init * Polynomial.X ^ 42 + blockX m) crcModulus := by
  rw [← Polynomial.modByMonic_eq_of_dvd_sub crcModulus_monic
    (AdjoinRoot.mk_eq_mk.mp (mk_byteX_foldl init m))]
  exact ((Polynomial.modByMonic_eq_self_iff crcModulus_monic).mpr (byteX_degree_lt _)).symm

theorem byteX_zero : byteX 0 = 0 := by
  simp [byteX]

/-- Settles O23. -/
theorem crcIsAPolynomialRemainder : Obligations.CrcIsAPolynomialRemainder := by
  constructor
  · intro s m
    refine ⟨_, exec_crc s m, ?_⟩
    rw [State.commit_out, crcOf_hw, byteX_foldl, byteX_zero, zero_mul, zero_add]
  · intro init xorOut m
    rw [crcOf_crcConfig, byteX_xor, byteX_foldl]

end Sys2Proof.Machine
end
